-- ==== Sys2Proof/Word.lean ====
section
/-! DEFINITION. The byte type of the block (spec/00_scope.md R8: a byte is 8 bits). -/

namespace Sys2Proof

/-- A byte of the input stream, a symbol byte, a sample, a selector. -/
abbrev Byte := BitVec 8

end Sys2Proof
end

