-- ==== Sys2Proof/Syntax.lean ====
section
/-! DEFINITION. The instructions of the block: one constructor per row of spec/opcode_table.json, at the four levels of
spec/30_encoding.md: markers, entropy symbols, unit operations, host commands; and the encoded words (`Enc`) they are
read from. A segment's marker is the instruction; its payload is read from the input as the marker's rule runs. -/

namespace Sys2Proof

/-- One constructor per row of the opcode table, in the table's order. -/
inductive Instr where
  -- markers (R101)
  | soi
  | eoi
  | rst (m : BitVec 3)
  | sof0
  | sof1
  | sof2
  | dht
  | dqt
  | sos
  | dri
  | dnl
  | app0
  | app14
  | appn (n : BitVec 4)
  | com
  | sof3
  | sof5
  | sof6
  | sof7
  | sof9
  | sof10
  | sof11
  | dac
  | sof13
  | sof14
  | sof15
  | dhp
  | exp
  | stuff
  | res (code : Byte)
  -- entropy symbols (R115 to R120): the fields of the decoded symbol byte, or the raw bits
  | dcDiff (t : BitVec 4)
  | acCoef (r s : BitVec 4)
  | acZrl
  | acEob (r : BitVec 4)
  | acpCoef (r s : BitVec 4)
  | acpZrl
  | acpEobrun (r : BitVec 4)
  | acrCoef (r : BitVec 4)
  | acrZrl
  | acrEobrun (r : BitVec 4)
  | acrBad (r s : BitVec 4)
  | dcRefineBit (b : Bool)
  | mag (n : BitVec 4) (v : BitVec 15)
  -- unit operations (R125)
  | blkBaseline
  | blkDcFirst
  | blkDcRefine
  | blkAcFirst
  | blkAcRefine
  | idct
  | dequantIdct
  | rs1x1
  | rsV2
  | rsH2
  | rsHv2
  | rsGeneric
  | ccGray
  | ccRgb
  | ccYcbcr
  | ccCmyk
  | ccYcck
  | ccYcbcrK
  | restart
  | reset
  | hufBuild
  | fastacBuild
  | fill
  | decodeHuff
  | getBits
  | getBit
  | receiveExtend
  | getMarker
  | seekMarker
  -- host commands (R27): one write of CTRL is named by the first of SOFT_RESET, START, ABORT it asks for, else by
  -- IRQ_EN; the other bits of the same write are its operands
  | ctrlStart (abort irqEn : Bool)
  | ctrlAbort (irqEn : Bool)
  | ctrlSoftReset (start abort irqEn : Bool)
  | ctrlIrqEn (level : Bool)
  deriving DecidableEq, Repr

/-- An encoded word, with the level it is read at: `match` and `mask` of the opcode table apply to a different word at
each level (spec/30_encoding.md, before 30.1). -/
inductive Enc where
  /-- The 16-bit marker word `0xFF00 | code`. -/
  | marker (w : BitVec 16)
  /-- A symbol byte decoded with a DC table (R116). -/
  | dcSym (b : Byte)
  /-- A symbol byte of a sequential AC scan (R117). -/
  | acSym (b : Byte)
  /-- A symbol byte of a progressive AC first scan (R118). -/
  | acpSym (b : Byte)
  /-- A symbol byte of a progressive AC refinement scan (R119). -/
  | acrSym (b : Byte)
  /-- The raw bit of a DC refinement (R120). -/
  | dcrBit (b : BitVec 1)
  /-- `n` raw bits `v` of a magnitude field (R115). -/
  | mag (n : BitVec 4) (v : BitVec 15)
  /-- The selector of a unit operation (R125). -/
  | unit (sel : Byte)
  /-- The 32-bit value written to CTRL (R27). -/
  | ctrl (w : BitVec 32)
  deriving DecidableEq, Repr

end Sys2Proof
end

