-- ==== Sys2Proof/WellFormed.lean ====
section
/-! DEFINITION. Which instructions are well formed: the side conditions of the opcode table's rows, each with the rule
that gives it. -/

namespace Sys2Proof

/-- The codes of the RES row (R101, R225): every code byte without a more specific row, 0xFF (a fill byte) excluded. -/
def resCode (c : Byte) : Bool :=
  (0x01 ≤ c && c ≤ 0xBF) || c == 0xC8 || (0xF0 ≤ c && c ≤ 0xFD)

/-- The side condition of each row (the table's notes). -/
def Instr.wf : Instr → Bool
  | .appn n => n != 0 && n != 14          -- APP0 and APP14 have their own rows
  | .res c => resCode c                   -- R101
  | .acCoef _ s => s != 0                 -- R117
  | .acEob r => r != 15                   -- R117: R = 15 is ZRL
  | .acpCoef _ s => s != 0                -- R118
  | .acpEobrun r => r != 15               -- R118
  | .acrEobrun r => r != 15               -- R119
  | .acrBad _ s => s != 0 && s != 1       -- R119
  | .mag n v => n != 0 && decide (v.toNat < 2 ^ n.toNat)   -- R115: n raw bits, n in 1..15
  | _ => true

end Sys2Proof
end

