-- ==== Sys2Proof/Decode.lean ====
section
/-! DEFINITION. Decoding of the words of every level (spec/30_encoding.md), total and rejecting by name, and the encoder
written from the same tables. A row's word is looked up most specific first, as spec/30_encoding.md says. -/

namespace Sys2Proof

/-- Why a word is no instruction. -/
inductive Reject where
  /-- The first byte of a marker is not 0xFF (R100). -/
  | notMarker
  /-- 0xFF is a fill byte, never a marker code (R100, R101). -/
  | fillByte
  /-- The byte string ends before a marker is complete. -/
  | truncated
  /-- A DC category above 15, which BLK_BASELINE and BLK_DC_FIRST answer with BadHuffmanCode (R116). -/
  | dcCategory
  /-- A magnitude field of 0 bits does not exist (R115). -/
  | emptyMagnitude
  /-- More raw bits than the field has. -/
  | magnitudeBits
  /-- A reserved unit-operation selector, never issued (R125). -/
  | reservedSelector
  deriving DecidableEq, Repr

/-- The accepted markers of the opcode table with a mask of 0xFFFF: code and instruction. -/
def acceptedMarkers : List (Byte × Instr) :=
  [(0xD8, .soi), (0xD9, .eoi), (0xC0, .sof0), (0xC1, .sof1), (0xC2, .sof2), (0xC4, .dht), (0xDB, .dqt), (0xDA, .sos),
   (0xDD, .dri), (0xDC, .dnl), (0xE0, .app0), (0xEE, .app14), (0xFE, .com)]

/-- The markers of the processes the block refuses (R223), and STUFF (R225). -/
def refusedMarkers : List (Byte × Instr) :=
  [(0xC3, .sof3), (0xC5, .sof5), (0xC6, .sof6), (0xC7, .sof7), (0xC9, .sof9), (0xCA, .sof10), (0xCB, .sof11),
   (0xCC, .dac), (0xCD, .sof13), (0xCE, .sof14), (0xCF, .sof15), (0xDE, .dhp), (0xDF, .exp), (0x00, .stuff)]

/-- The marker rows of the opcode table with a mask of 0xFFFF. -/
def exactMarkers : List (Byte × Instr) := acceptedMarkers ++ refusedMarkers

/-- The instruction of a key in a table of rows: the first row that has it. -/
def lookupRow (key : Byte) : List (Byte × Instr) → Option Instr
  | [] => none
  | (k, i) :: rest => if k = key then some i else lookupRow key rest

/-- The key of an instruction in a table of rows. -/
def lookupKey (i : Instr) : List (Byte × Instr) → Option Byte
  | [] => none
  | (k, j) :: rest => if j = i then some k else lookupKey i rest

/-- A marker code (R101): the exact rows first, then RSTm (mask 0xFFF8) and APPn (mask 0xFFF0), then RES (mask 0xFF00).
JPG (0xC8) is RES, which UnknownMarker refuses, as R101, R215 and R225 have it; 92_eei_decisions.md D25 puts JPG with the unsupported
processes (DESIGN CHOICE, log 26). -/
def decodeCode (c : Byte) : Except Reject Instr :=
  if c = 0xFF then .error .fillByte
  else match lookupRow c exactMarkers with
    | some i => .ok i
    | none =>
      if c &&& 0xF8 = 0xD0 then .ok (.rst (c.truncate 3))
      else if c &&& 0xF0 = 0xE0 then .ok (.appn (c.truncate 4))
      else .ok (.res c)

/-- A 16-bit marker word `0xFF00 | code` (R100). -/
def decodeMarker (w : BitVec 16) : Except Reject Instr :=
  if w.extractLsb' 8 8 = 0xFF then decodeCode (w.truncate 8) else .error .notMarker

/-- The code of a marker after its 0xFF bytes: fill bytes are skipped (R100). -/
def decodeAfterFF : List Byte → Except Reject (Instr × List Byte)
  | [] => .error .truncated
  | c :: rest => if c = 0xFF then decodeAfterFF rest else (decodeCode c).map (fun i => (i, rest))

/-- A marker at the head of a byte string, and the bytes after it (R100). -/
def decodeBytes : List Byte → Except Reject (Instr × List Byte)
  | [] => .error .truncated
  | b :: rest => if b = 0xFF then decodeAfterFF rest else .error .notMarker

/-- The zero run `R` of a symbol byte, bits 7:4 (R117). -/
def runOf (b : Byte) : BitVec 4 := b.extractLsb' 4 4

/-- The category `S` of a symbol byte, bits 3:0 (R117). -/
def catOf (b : Byte) : BitVec 4 := b.extractLsb' 0 4

/-- DC_SYM (R116). -/
def decodeDcSym (b : Byte) : Except Reject Instr :=
  if runOf b = 0 then .ok (.dcDiff (catOf b)) else .error .dcCategory

/-- AC_SYM (R117). -/
def decodeAcSym (b : Byte) : Except Reject Instr :=
  if b = 0xF0 then .ok .acZrl
  else if catOf b = 0 then .ok (.acEob (runOf b))
  else .ok (.acCoef (runOf b) (catOf b))

/-- ACP_SYM (R118). -/
def decodeAcpSym (b : Byte) : Except Reject Instr :=
  if b = 0xF0 then .ok .acpZrl
  else if catOf b = 0 then .ok (.acpEobrun (runOf b))
  else .ok (.acpCoef (runOf b) (catOf b))

/-- ACR_SYM (R119). -/
def decodeAcrSym (b : Byte) : Except Reject Instr :=
  if b = 0xF0 then .ok .acrZrl
  else if catOf b = 0 then .ok (.acrEobrun (runOf b))
  else if catOf b = 1 then .ok (.acrCoef (runOf b))
  else .ok (.acrBad (runOf b) (catOf b))

/-- MAG_n (R115): `n` raw bits `v`. -/
def decodeMag (n : BitVec 4) (v : BitVec 15) : Except Reject Instr :=
  if n = 0 then .error .emptyMagnitude
  else if v.toNat < 2 ^ n.toNat then .ok (.mag n v)
  else .error .magnitudeBits

/-- The selectors of R125 of the block decoder, the IDCT and the resampler. -/
def blockSelectors : List (Byte × Instr) :=
  [(0x10, .blkBaseline), (0x11, .blkDcFirst), (0x12, .blkDcRefine), (0x13, .blkAcFirst), (0x14, .blkAcRefine),
   (0x20, .idct), (0x21, .dequantIdct),
   (0x30, .rs1x1), (0x31, .rsV2), (0x32, .rsH2), (0x33, .rsHv2), (0x34, .rsGeneric)]

/-- The selectors of R125 of the colour stage, the restart FSM, the Huffman store, the bit machine and the parser. -/
def otherSelectors : List (Byte × Instr) :=
  [(0x40, .ccGray), (0x41, .ccRgb), (0x42, .ccYcbcr), (0x43, .ccCmyk), (0x44, .ccYcck), (0x45, .ccYcbcrK),
   (0x50, .restart), (0x51, .reset), (0x60, .hufBuild), (0x61, .fastacBuild),
   (0x70, .fill), (0x71, .decodeHuff), (0x72, .getBits), (0x73, .getBit), (0x74, .receiveExtend),
   (0x75, .getMarker), (0x76, .seekMarker)]

/-- The selectors of R125. -/
def selectors : List (Byte × Instr) := blockSelectors ++ otherSelectors

/-- A unit-operation selector (R125); every other value is reserved. -/
def decodeSelector (b : Byte) : Except Reject Instr :=
  match lookupRow b selectors with
  | some i => .ok i
  | none => .error .reservedSelector

/-- A value written to CTRL (R27): SOFT_RESET acts first, then START, then ABORT, and IRQ_EN is a level that every write
carries; reserved bits are ignored (log 11). -/
def decodeCtrl (w : BitVec 32) : Instr :=
  if w.getLsbD 2 then .ctrlSoftReset (w.getLsbD 0) (w.getLsbD 1) (w.getLsbD 3)
  else if w.getLsbD 0 then .ctrlStart (w.getLsbD 1) (w.getLsbD 3)
  else if w.getLsbD 1 then .ctrlAbort (w.getLsbD 3)
  else .ctrlIrqEn (w.getLsbD 3)

/-- The decoder of every level. -/
def decode : Enc → Except Reject Instr
  | .marker w => decodeMarker w
  | .dcSym b => decodeDcSym b
  | .acSym b => decodeAcSym b
  | .acpSym b => decodeAcpSym b
  | .acrSym b => decodeAcrSym b
  | .dcrBit b => .ok (.dcRefineBit (b = 1))
  | .mag n v => decodeMag n v
  | .unit sel => decodeSelector sel
  | .ctrl w => .ok (decodeCtrl w)

/-- The marker word of a code (R100). -/
def markerWord (c : Byte) : BitVec 16 := (0xFF : Byte) ++ c

/-- A symbol byte from its run and category (R117). -/
def symByte (r s : BitVec 4) : Byte := r ++ s

/-- The CTRL word of its four command bits (R27). -/
def ctrlWord (start abort softReset irqEn : Bool) : BitVec 32 :=
  BitVec.ofNat 32 (start.toNat + 2 * abort.toNat + 4 * softReset.toNat + 8 * irqEn.toNat)

/-- The encoder: the word of an instruction, from the same tables. -/
def encode (i : Instr) : Enc :=
  match lookupKey i exactMarkers, lookupKey i selectors with
  | some c, _ => .marker (markerWord c)
  | none, some sel => .unit sel
  | none, none =>
    match i with
    | .rst m => .marker (markerWord (0xD0 ||| m.zeroExtend 8))
    | .appn n => .marker (markerWord (0xE0 ||| n.zeroExtend 8))
    | .res c => .marker (markerWord c)
    | .dcDiff t => .dcSym (symByte 0 t)
    | .acCoef r s => .acSym (symByte r s)
    | .acZrl => .acSym 0xF0
    | .acEob r => .acSym (symByte r 0)
    | .acpCoef r s => .acpSym (symByte r s)
    | .acpZrl => .acpSym 0xF0
    | .acpEobrun r => .acpSym (symByte r 0)
    | .acrCoef r => .acrSym (symByte r 1)
    | .acrZrl => .acrSym 0xF0
    | .acrEobrun r => .acrSym (symByte r 0)
    | .acrBad r s => .acrSym (symByte r s)
    | .dcRefineBit b => .dcrBit (if b then 1 else 0)
    | .mag n v => .mag n v
    | .ctrlStart abort irqEn => .ctrl (ctrlWord true abort false irqEn)
    | .ctrlAbort irqEn => .ctrl (ctrlWord false true false irqEn)
    | .ctrlSoftReset start abort irqEn => .ctrl (ctrlWord start abort true irqEn)
    | .ctrlIrqEn level => .ctrl (ctrlWord false false false level)
    | _ => .marker 0

/-- The level at which a word of the opcode table of `nbits` bits is read (log 18): 16 bits are a marker word and 32 bits
a value of CTRL. An 8-bit word stands in the table for six formats at once; the table's rule takes the row with the most
mask bits, and of two such rows the first: a unit operation's selector, then the symbol 0xF0 (AC_ZRL), then DC_DIFF, AC_EOB
and ACR_COEF (four mask bits), then AC_COEF. -/
def tableEnc (nbits w : Nat) : Option Enc :=
  if nbits = 16 then some (.marker (BitVec.ofNat 16 w))
  else if nbits = 32 then some (.ctrl (BitVec.ofNat 32 w))
  else if nbits = 8 then
    let b : Byte := BitVec.ofNat 8 w
    if (lookupRow b selectors).isSome then some (.unit b)
    else if b = 0xF0 then some (.acSym b)
    else if runOf b = 0 then some (.dcSym b)
    else if catOf b = 0 then some (.acSym b)
    else if catOf b = 1 then some (.acrSym b)
    else some (.acSym b)
  else none

/-- The instruction the decoder reads from a word numbered as the opcode table numbers it. -/
def decodeTableWord (nbits w : Nat) : Option Instr :=
  match tableEnc nbits w with
  | none => none
  | some e =>
    match decode e with
    | .ok i => some i
    | .error _ => none

end Sys2Proof
end

