-- ==== Sys2Proof/Config.lean ====
section
/-! DEFINITION. The open parameters of the block (spec/00_scope.md R7). No rule writes them, and the model takes
them as fields of its state, so that every statement holds for every value of them (log 12). -/

namespace Sys2Proof

/-- The open parameters of R7. -/
structure Config where
  /-- `MAX_ALLOC_BYTES`: the bound of every size product checked at SOF (R233, R237). -/
  maxAllocBytes : Nat
  /-- `PLANE_MEM_BYTES`: the capacity of the plane memory (R83, R237). OPEN in the spec. -/
  planeMemBytes : Nat
  /-- `STRICT_BASELINE_SPEC_END`: whether a sequential SOS with Se other than 63 is refused (R244). -/
  strictBaselineSpecEnd : Bool
  deriving DecidableEq, Repr

/-- The defaults of R7. `PLANE_MEM_BYTES` has no default in the spec. DESIGN CHOICE (log 12), unsafe: 2^33, which holds the
planes of every frame that passes the size checks with the default `MAX_ALLOC_BYTES`. -/
def Config.standard : Config where
  maxAllocBytes := 2 ^ 31 - 1
  planeMemBytes := 2 ^ 33
  strictBaselineSpecEnd := false

end Sys2Proof
end

