-- ==== Sys2Proof/Machine/State.lean ====
section
/-! DEFINITION. The state of the block (spec/10_state.md, spec/20_memory.md), its reasons to stop, and the state after
power-on reset (spec/70_reset_and_hazards.md R440). Plain data. Every field names the rule that gives it; the fields that
are the model's own are marked and listed in INVENTORY.md. -/

namespace Sys2Proof.Machine

/-- The named values of `phase` (R21). -/
inductive Phase where
  | idle
  | soi
  | header
  | frame
  | scan
  | finish
  | output
  | done
  | error
  deriving DecidableEq, Repr

/-- The errors of R402, in the order of their codes 1 to 39. -/
inductive ErrCode where
  | endOfStream
  | noSoi
  | expectedMarker
  | unknownMarker
  | unexpectedMarker
  | unsupportedProcess
  | badDqtType
  | badDqtTable
  | badDqtLength
  | badDhtHeader
  | badCodeLengths
  | badDhtLength
  | badDriLength
  | badSegmentLength
  | badSofLength
  | badPrecision
  | zeroHeight
  | zeroWidth
  | badComponentCount
  | badH
  | badV
  | badTq
  | nonIntegerSampling
  | sizeOverflow
  | allocFailed
  | badSosComponentCount
  | badSosLength
  | badSosComponentId
  | badDcTableIndex
  | badAcTableIndex
  | badSos
  | missingHuffmanTable
  | missingQuantTable
  | badHuffmanCode
  | badProgressiveScan
  | noResetMarker
  | badDnlLength
  | badDnlHeight
  | cancelled
  deriving DecidableEq, Repr

/-- Model faults (R403, R414): situations to which the spec gives no value. All are safe: the machine stops where the
hardware would go on with some value, so no claim can rest on a value the spec does not give. -/
inductive Fault where
  /-- Raised by a read of a pixel-plane byte that nothing has written since allocation (R77, R352). Safe. -/
  | unwrittenSample
  /-- Raised by a read of a coefficient that nothing has written since allocation (R78). Safe. -/
  | unwrittenCoefficient
  /-- Raised by a pixel-plane access outside the plane, or with no plane allocated (R77; log 14). Safe. -/
  | planeIndex
  /-- Raised by a coefficient-plane access outside the plane, or with no plane allocated (R78; log 14). Safe. -/
  | coefIndex
  /-- Raised by FillBits entered with `code_bits` above 24 (R180). Safe. -/
  | fillPrecondition
  /-- Raised by a read of a Huffman, fast-AC or quantisation table that is not loaded (spec/93 U1; log 5). Safe. -/
  | unloadedTable
  /-- Raised by HUF_BUILD on counts whose sum is above 256, which R150 excludes (log 19). Safe. -/
  | countsPrecondition
  deriving DecidableEq, Repr

/-- Refusals. -/
inductive Refusal where
  /-- Raised by `exec` for an instruction without a meaning. Safe. -/
  | notModelled (mnemonic : String)
  /-- Raised by `step` for a host access that is not a 32-bit access at a multiple of 4: R80 says it is not offered and is
  "refused, not given a value". Safe. -/
  | csrAccess
  /-- Raised by `step` for a word in the issue register that no row of the opcode table decodes: R125 says a reserved
  selector is never issued. Safe. -/
  | reservedWord
  deriving DecidableEq, Repr

/-- One Huffman table `huff[tc][th]` (R36). `delta[l]` and `maxcode[l]` stand at position `l - 1`. -/
structure HuffTable where
  size : Vector (BitVec 5) 257
  code : Vector (BitVec 16) 256
  values : Vector Byte 256
  delta : Vector (BitVec 32) 16
  maxcode : Vector (BitVec 32) 17
  fast : Vector Byte 512
  nsym : BitVec 9
  loaded : Bool
  deriving DecidableEq, Repr

/-- The memory of one plane (R77, R78): index and element, indices strictly rising; an index that is not listed has not been
written. With 8-bit elements it is a list of `Host.Cell`. -/
abbrev Mem (w : Nat) := List (Nat × BitVec w)

/-- One component record `comp[i]` (R40), with its planes (R76). -/
structure Comp where
  id : Byte
  h : BitVec 3
  v : BitVec 3
  tq : BitVec 2
  hd : BitVec 2
  ha : BitVec 2
  dcPred : BitVec 32
  x : BitVec 17
  y : BitVec 17
  w2 : BitVec 20
  h2 : BitVec 20
  coeffW : BitVec 17
  coeffH : BitVec 17
  plane : Mem 8
  coef : Mem 16
  deriving DecidableEq, Repr

/-- The frame registers (R39). `geom_valid` stands in `Control`. -/
structure Frame where
  imgX : BitVec 16
  imgY : BitVec 16
  imgN : BitVec 3
  progressive : Bool
  hMax : BitVec 3
  vMax : BitVec 3
  mcuW : BitVec 6
  mcuH : BitVec 6
  mcuX : BitVec 17
  mcuY : BitVec 17
  outN : BitVec 3
  deriving DecidableEq, Repr

/-- The bit machine (R42 to R45). -/
structure BitMachine where
  codeBuffer : BitVec 32
  codeBits : BitVec 8
  noMoreBits : Bool
  marker : Byte
  deriving DecidableEq, Repr

/-- The scan registers (R46 to R48). -/
structure Scan where
  scanN : BitVec 3
  order : Vector (BitVec 2) 4
  specStart : Byte
  specEnd : Byte
  succHigh : BitVec 4
  succLow : BitVec 4
  eobRun : BitVec 32
  deriving DecidableEq, Repr

/-- The loop position registers (R25); `bcol` and `brow` are the rule's `bx` and `by`. -/
structure LoopPos where
  mcuI : BitVec 17
  mcuJ : BitVec 17
  sk : BitVec 2
  bcol : BitVec 3
  brow : BitVec 3
  fk : BitVec 2
  fi : BitVec 17
  fj : BitVec 17
  oj : BitVec 16
  deriving DecidableEq, Repr

/-- The control flags (R27, R28, R39, R53, R54), and `held`: how many bytes the step that a stalled read holds in place has
consumed (R71, R91), the model's own (log 1). -/
structure Control where
  irqEn : Bool
  abortReq : Bool
  geomValid : Bool
  hdrPad : Bool
  stallIn : Bool
  held : BitVec 32
  deriving DecidableEq, Repr

/-- The colour-decision flags (R51), and `is_rgb` (R370, R371, R440). -/
structure Flags where
  jfif : Bool
  app14Valid : Bool
  app14 : Byte
  rgbIds : BitVec 2
  isRgb : Bool
  deriving DecidableEq, Repr

/-- One resampler record (R52). -/
structure Resampler where
  hs : BitVec 3
  vs : BitVec 3
  wLores : BitVec 16
  ystep : BitVec 3
  ypos : BitVec 17
  line0 : BitVec 17
  line1 : BitVec 17
  kern : Byte
  lineBuf : List Byte
  deriving DecidableEq, Repr

/-- The block buffer `data` (R41, R274), the IDCT's result `px` (R336), the zig-zag position `k` of the block operations
(R274, R278, R280), and whether an end-of-block symbol has ended the symbol loop. The last is the model's own (log 6). -/
structure BlockRegs where
  data : Vector (BitVec 16) 64
  px : Vector Byte 64
  k : Nat
  done : Bool
  deriving DecidableEq, Repr

/-- Where a unit operation of R125 finds its operands and leaves its result when it is issued on its own: the model's own
registers (log 6); the spec names the operands. -/
structure UnitPort where
  /-- Table class (R156, R182). -/
  tc : BitVec 1
  /-- Table id (R155, R156, R182). -/
  th : BitVec 2
  /-- Bit count (R186, R188). -/
  n : BitVec 5
  /-- `last` of RestartCheck (R313). -/
  last : Bool
  /-- `counts[1..16]`, u8 each (R106, R150), `counts[l]` at position `l - 1`. DESIGN CHOICE (log 26): so the table of 256 codes of
  length 8, of which R153 speaks, cannot be asked for. -/
  counts : Vector Byte 16
  /-- The component whose resampler record a kernel uses (R352). -/
  comp : BitVec 2
  /-- `in_near` (R352). -/
  inNear : List Byte
  /-- `in_far` (R352). -/
  inFar : List Byte
  /-- The samples of one pixel (R370). -/
  samples : Vector Byte 4
  /-- The value a unit operation returns. -/
  result : BitVec 32
  /-- The output bytes of one pixel (R373 to R378). -/
  pixel : List Byte
  deriving DecidableEq, Repr

/-- The output events (R84, R85). -/
inductive Event where
  | geom (width height : BitVec 16) (components : BitVec 3) (depth : Nat)
  | row (j : BitVec 16) (data : List Byte)
  deriving DecidableEq, Repr

/-- One host write to the CSR window (R26, R80). -/
structure CsrWrite where
  offset : BitVec 6
  value : BitVec 32
  deriving DecidableEq, Repr

/-- What the host has offered and received (R71, R84, R85, R86): the bytes it supplies from the stream offset `byte_pos` on,
whether it signals end of stream after them, its pending CSR writes, how many ROW events it will accept, and the events
delivered to it. The environment may change any of them between two steps (log 2). -/
structure Port where
  input : List Byte
  eos : Bool
  writes : List CsrWrite
  rowAccepts : Nat
  events : List Event
  deriving DecidableEq, Repr

/-- The state of the block. -/
structure State where
  /-- The open parameters of R7. -/
  cfg : Config
  /-- R21. -/
  phase : Phase
  /-- `err_code` (R22). -/
  errCode : BitVec 8
  /-- `err_class` (R22). -/
  errClass : BitVec 3
  /-- `byte_pos` (R23). -/
  bytePos : BitVec 32
  /-- `rows_emitted` (R24). -/
  rowsEmitted : BitVec 32
  /-- R25. -/
  pos : LoopPos
  /-- R27, R28, R53, R54. -/
  ctl : Control
  /-- `last_marker` (R34). -/
  lastMarker : Byte
  /-- `last_marker_valid` (R34). -/
  lastMarkerValid : Bool
  /-- `huff[tc][th]` (R36). -/
  huff : Vector (Vector HuffTable 4) 2
  /-- `fast_ac[th]` (R37). -/
  fastAc : Vector (Vector (BitVec 16) 512) 4
  /-- `qt[tq]` (R38). -/
  qt : Vector (Vector (BitVec 16) 64) 4
  /-- `qt_loaded[tq]` (R38). -/
  qtLoaded : Vector Bool 4
  /-- R39. -/
  frame : Frame
  /-- R40. -/
  comp : Vector Comp 4
  /-- Whether the planes are allocated (R76, R440). -/
  planesAllocated : Bool
  /-- R42 to R45. -/
  bits : BitMachine
  /-- R46 to R48. -/
  scan : Scan
  /-- `restart_interval` (R49). -/
  restartInterval : BitVec 16
  /-- `todo` (R50), two's complement. -/
  todo : BitVec 32
  /-- R51. -/
  flags : Flags
  /-- R52. -/
  rs : Vector Resampler 4
  /-- The conversion fixed at the first OUTPUT step (R370, R372), a selector of R125. -/
  cc : Byte
  /-- R41, R274, R336. -/
  blk : BlockRegs
  /-- The model's own operand and result registers (log 6). -/
  unit : UnitPort
  /-- The model's own issue register (log 7): a word handed to the units for the next step. -/
  issue : Option Enc
  /-- The ROW event the sequencer holds until the host accepts it (R85); `STALL_OUT` reads as its presence (R28). -/
  rowPending : Option (BitVec 16 × List Byte)
  /-- R70, R71, R84, R85. -/
  port : Port
  deriving DecidableEq, Repr

/-- A table with nothing in it: `loaded` = 0; the contents the spec leaves unspecified are 0 (DESIGN CHOICE, log 5). -/
def HuffTable.empty : HuffTable where
  size := Vector.replicate 257 0
  code := Vector.replicate 256 0
  values := Vector.replicate 256 0
  delta := Vector.replicate 16 0
  maxcode := Vector.replicate 17 0
  fast := Vector.replicate 512 0
  nsym := 0
  loaded := false

/-- A component record at POR: every field 0, no plane (R40). -/
def Comp.empty : Comp where
  id := 0
  h := 0
  v := 0
  tq := 0
  hd := 0
  ha := 0
  dcPred := 0
  x := 0
  y := 0
  w2 := 0
  h2 := 0
  coeffW := 0
  coeffH := 0
  plane := []
  coef := []

/-- A resampler record at POR (R52). -/
def Resampler.empty : Resampler where
  hs := 0
  vs := 0
  wLores := 0
  ystep := 0
  ypos := 0
  line0 := 0
  line1 := 0
  kern := 0
  lineBuf := []

/-- The unit port at POR (DESIGN CHOICE, log 6). -/
def UnitPort.empty : UnitPort where
  tc := 0
  th := 0
  n := 0
  last := false
  counts := Vector.replicate 16 0
  comp := 0
  inNear := []
  inFar := []
  samples := Vector.replicate 4 0
  result := 0
  pixel := []

/-- The machine right after power-on reset (R440 and the POR column of spec/10_state.md). -/
def State.reset : State where
  cfg := Config.standard
  phase := .idle
  errCode := 0
  errClass := 0
  bytePos := 0
  rowsEmitted := 0
  pos := { mcuI := 0, mcuJ := 0, sk := 0, bcol := 0, brow := 0, fk := 0, fi := 0, fj := 0, oj := 0 }
  ctl := { irqEn := false, abortReq := false, geomValid := false, hdrPad := false, stallIn := false, held := 0 }
  lastMarker := 0
  lastMarkerValid := false
  huff := Vector.replicate 2 (Vector.replicate 4 HuffTable.empty)
  fastAc := Vector.replicate 4 (Vector.replicate 512 0)
  qt := Vector.replicate 4 (Vector.replicate 64 0)
  qtLoaded := Vector.replicate 4 false
  frame := { imgX := 0, imgY := 0, imgN := 0, progressive := false, hMax := 0, vMax := 0, mcuW := 0, mcuH := 0,
             mcuX := 0, mcuY := 0, outN := 0 }
  comp := Vector.replicate 4 Comp.empty
  planesAllocated := false
  bits := { codeBuffer := 0, codeBits := 0, noMoreBits := false, marker := 0xFF }
  scan := { scanN := 0, order := Vector.replicate 4 0, specStart := 0, specEnd := 0, succHigh := 0, succLow := 0,
            eobRun := 0 }
  restartInterval := 0
  todo := 0
  flags := { jfif := false, app14Valid := false, app14 := 0, rgbIds := 0, isRgb := false }
  rs := Vector.replicate 4 Resampler.empty
  cc := 0
  blk := { data := Vector.replicate 64 0, px := Vector.replicate 64 0, k := 0, done := false }
  unit := UnitPort.empty
  issue := none
  rowPending := none
  port := { input := [], eos := false, writes := [], rowAccepts := 0, events := [] }

end Sys2Proof.Machine
end

