-- ==== Sys2Proof/Machine/Ops.lean ====
section
/-! DEFINITION. The named operations over the state: updates, the sequential steps of a rule (`Seq`) with the ways one can
end early, the input port (spec/20_memory.md 20.2), the planes (20.3), the table memories, the output events (20.6), taking
an error (spec/60_exceptions.md R410) and what ends one (R413: START and SOFT_RESET, spec/70_reset_and_hazards.md). -/

namespace Sys2Proof.Machine

/-! ### Arithmetic of R9 -/

/-- `ceil_div(a, b)` (R9). -/
def ceilDiv (a b : Nat) : Nat := (a + b - 1) / b

/-- `trunc16` (R9): the `s16` congruent to an integer modulo 2^16, as its 16 bits. -/
def trunc16 (v : Int) : BitVec 16 := BitVec.ofInt 16 v

/-- `wrap32` (R9): the `s32` congruent to an integer modulo 2^32, as its 32 bits. -/
def wrap32 (v : Int) : BitVec 32 := BitVec.ofInt 32 v

/-- `clamp255` (R9). -/
def clamp255 (v : Int) : Byte := if v < 0 then 0 else if 255 < v then 255 else BitVec.ofInt 8 v

/-- A two-bit index as a position of a table of four. -/
def idx2 (b : BitVec 2) : Fin 4 := ⟨b.toNat, b.isLt⟩

/-- A one-bit index as a position of a table of two. -/
def idx1 (b : BitVec 1) : Fin 2 := ⟨b.toNat, b.isLt⟩

/-- The element of a fixed table, or `d` past its end. -/
def at? {α : Type} {n : Nat} (v : Vector α n) (i : Nat) (d : α) : α := if h : i < n then v[i] else d

/-- A fixed table with one element replaced; nothing past its end. -/
def put {α : Type} {n : Nat} (v : Vector α n) (i : Nat) (x : α) : Vector α n := if h : i < n then v.set i x h else v

/-! ### Updates of the state -/

/-- Write `phase`. -/
def State.setPhase (p : Phase) (s : State) : State := { s with phase := p }
/-- Write the loop position registers. -/
def State.setPos (p : LoopPos) (s : State) : State := { s with pos := p }
/-- Write the control flags. -/
def State.setCtl (c : Control) (s : State) : State := { s with ctl := c }
/-- Write the frame registers. -/
def State.setFrame (f : Frame) (s : State) : State := { s with frame := f }
/-- Write the bit machine. -/
def State.setBits (b : BitMachine) (s : State) : State := { s with bits := b }
/-- Write the scan registers. -/
def State.setScan (c : Scan) (s : State) : State := { s with scan := c }
/-- Write the colour-decision flags. -/
def State.setFlags (f : Flags) (s : State) : State := { s with flags := f }
/-- Write the block registers. -/
def State.setBlk (b : BlockRegs) (s : State) : State := { s with blk := b }
/-- Write the unit port. -/
def State.setUnit (u : UnitPort) (s : State) : State := { s with unit := u }
/-- Write the ports. -/
def State.setPort (p : Port) (s : State) : State := { s with port := p }
/-- Write one component record. -/
def State.setComp (c : Fin 4) (r : Comp) (s : State) : State := { s with comp := s.comp.set c.val r c.isLt }
/-- Write one resampler record. -/
def State.setRs (c : Fin 4) (r : Resampler) (s : State) : State := { s with rs := s.rs.set c.val r c.isLt }
/-- Write one Huffman table. -/
def State.setHuff (tc : Fin 2) (th : Fin 4) (T : HuffTable) (s : State) : State :=
  { s with huff := s.huff.set tc.val ((s.huff.get tc).set th.val T th.isLt) tc.isLt }
/-- The Huffman table `huff[tc][th]`. -/
def State.huffAt (s : State) (tc : Fin 2) (th : Fin 4) : HuffTable := (s.huff.get tc).get th
/-- Write one fast-AC table. -/
def State.setFastAc (th : Fin 4) (f : Vector (BitVec 16) 512) (s : State) : State :=
  { s with fastAc := s.fastAc.set th.val f th.isLt }
/-- Write one entry of a quantisation table. -/
def State.setQt (t : Fin 4) (i : Fin 64) (v : BitVec 16) (s : State) : State :=
  { s with qt := s.qt.set t.val ((s.qt.get t).set i.val v i.isLt) t.isLt }
/-- Set `qt_loaded[t]`. -/
def State.setQtLoaded (t : Fin 4) (s : State) : State := { s with qtLoaded := s.qtLoaded.set t.val true t.isLt }
/-- Write `todo`. -/
def State.setTodo (v : BitVec 32) (s : State) : State := { s with todo := v }

/-! ### The steps of a rule -/

/-- How a rule can end before its last line. -/
inductive Stop where
  /-- `raise E` (R10). -/
  | raise (e : ErrCode)
  /-- A read that waits for the host (R71). -/
  | stall
  /-- A model fault (R414). -/
  | fault (f : Fault)
  deriving DecidableEq, Repr

/-- A piece of a rule: it reads and writes the state and gives a value, or ends early with the state it has reached (R11: a
call runs to completion, or raises, before the caller goes on). -/
abbrev Seq (α : Type) := EStateM Stop State α

/-- Read something of the state. -/
def look {α : Type} (f : State → α) : Seq α := fun s => .ok (f s) s

/-- Change the state. -/
def upd (f : State → State) : Seq Unit := fun s => .ok () (f s)

/-- `raise E` (R10). -/
def raise {α : Type} (e : ErrCode) : Seq α := fun s => .error (.raise e) s

/-- `fault F` (R10). -/
def modelFault {α : Type} (f : Fault) : Seq α := fun s => .error (.fault f) s

/-- `if c: raise E`. -/
def check (c : Bool) (e : ErrCode) : Seq Unit := if c then raise e else pure ()

/-- `if c: m`. -/
def onlyIf (c : Bool) (m : Seq Unit) : Seq Unit := if c then m else pure ()

/-- `for x in list: f x` (R11). -/
def forEach {α : Type} : List α → (α → Seq Unit) → Seq Unit
  | [], _ => pure ()
  | x :: xs, f => do
    f x
    forEach xs f

/-! ### Taking an error, and the held step -/

/-- The code of an error (R402). -/
def ErrCode.code (e : ErrCode) : BitVec 8 :=
  match e with
  | .endOfStream => 1
  | .noSoi => 2
  | .expectedMarker => 3
  | .unknownMarker => 4
  | .unexpectedMarker => 5
  | .unsupportedProcess => 6
  | .badDqtType => 7
  | .badDqtTable => 8
  | .badDqtLength => 9
  | .badDhtHeader => 10
  | .badCodeLengths => 11
  | .badDhtLength => 12
  | .badDriLength => 13
  | .badSegmentLength => 14
  | .badSofLength => 15
  | .badPrecision => 16
  | .zeroHeight => 17
  | .zeroWidth => 18
  | .badComponentCount => 19
  | .badH => 20
  | .badV => 21
  | .badTq => 22
  | .nonIntegerSampling => 23
  | .sizeOverflow => 24
  | .allocFailed => 25
  | .badSosComponentCount => 26
  | .badSosLength => 27
  | .badSosComponentId => 28
  | .badDcTableIndex => 29
  | .badAcTableIndex => 30
  | .badSos => 31
  | .missingHuffmanTable => 32
  | .missingQuantTable => 33
  | .badHuffmanCode => 34
  | .badProgressiveScan => 35
  | .noResetMarker => 36
  | .badDnlLength => 37
  | .badDnlHeight => 38
  | .cancelled => 39

/-- The class of an error (R401, R402): 1 malformed, 2 resource, 3 unsupported, 4 host. -/
def ErrCode.cls (e : ErrCode) : BitVec 3 :=
  match e with
  | .sizeOverflow => 2
  | .allocFailed => 2
  | .unsupportedProcess => 3
  | .badPrecision => 3
  | .zeroHeight => 3
  | .badComponentCount => 3
  | .nonIntegerSampling => 3
  | .cancelled => 4
  | _ => 1

/-- `raise E` taken (R410): `err_code`, `err_class`, `abort_req` and `phase`; no other state changes. -/
def State.takeError (e : ErrCode) (s : State) : State :=
  { s with errCode := e.code, errClass := e.cls, ctl := { s.ctl with abortReq := false }, phase := .error }

/-- The state without the marks of a held step: a delivered byte or an end of stream clears `STALL_IN` (R71). -/
def State.unheld (s : State) : State := { s with ctl := { s.ctl with stallIn := false, held := 0 } }

/-- The step is held in place by a read that waits (R71): it will run again from its start, so the state is the one it began in,
which is what a CSR read shows (R91: the state as of the last completed step), but for `STALL_IN` and for how many bytes the
held step has consumed, which BYTE_POS counts (R91; log 1). -/
def State.hold (n : BitVec 32) (s : State) : State := { s with ctl := { s.ctl with stallIn := true, held := n } }

/-- How a piece of a rule that began in `s` ends: it goes on with `k`, takes its error, is held, or faults. -/
def settle {α : Type} (s : State) (r : EStateM.Result Stop State α) (k : α → State → Host.Outcome State Fault Refusal) :
    Host.Outcome State Fault Refusal :=
  match r with
  | .ok a t => k a t
  | .error (.raise e) t => .next (t.takeError e)
  | .error .stall t => .next (s.hold (t.bytePos - s.bytePos))
  | .error (.fault f) _ => .fault f

/-- A rule as one instruction: run to its end, or taken error, or held. -/
def runOp (m : Seq Unit) (s : State) : Host.Outcome State Fault Refusal := settle s (m s.unheld) (fun _ t => .next t)

/-- A unit operation that returns a value: the value goes to the result register. -/
def runUnit {α : Type} (m : Seq α) (f : α → BitVec 32) (s : State) : Host.Outcome State Fault Refusal :=
  runOp (do
    let v ← m
    upd (fun t => t.setUnit { t.unit with result := f v })) s

/-- What ran inside a step that began in `s`: if it was held, the whole step is held (log 1). -/
def holdFrom (s : State) (o : Host.Outcome State Fault Refusal) : Host.Outcome State Fault Refusal :=
  match o with
  | .next t => if t.ctl.stallIn then .next (s.hold (t.bytePos + t.ctl.held - s.bytePos)) else .next t
  | .fault f => .fault f
  | .refused r => .refused r

/-! ### The input port -/

/-- `ReadU8()` (R71). -/
def readU8 : Seq Byte := fun s =>
  match s.port.input with
  | b :: rest => .ok b { s with port := { s.port with input := rest }, bytePos := s.bytePos + 1 }
  | [] => if s.port.eos then .error (.raise .endOfStream) s else .error .stall s

/-- `ReadU16BE()` (R73): the first byte is the more significant. -/
def readU16 : Seq (BitVec 16) := do
  let hi ← readU8
  let lo ← readU8
  pure (hi ++ lo)

/-- `Skip(n)` (R74). -/
def skip : Nat → Seq Unit
  | 0 => pure ()
  | n + 1 => do
    let _ ← readU8
    skip n

/-- Read bytes until one is not 0xFF, and give it: `c <- ReadU8(); while c = 0xFF: c <- ReadU8()` (R180, R212, R248). The
count bounds the loop; the bytes the host has supplied are enough, since each round takes one. -/
def readPastFF : Nat → Seq Byte
  | 0 => readU8
  | n + 1 => do
    let c ← readU8
    if c = 0xFF then readPastFF n else pure c

/-- How many bytes the host has supplied. -/
def supplied : Seq Nat := look (fun s => s.port.input.length)

/-! ### The planes -/

/-- The element at an index; none where nothing has been written. -/
def Mem.read {w : Nat} : Mem w → Nat → Option (BitVec w)
  | [], _ => none
  | (b, v) :: rest, a => if b = a then some v else Mem.read rest a

/-- Write the element at an index, keeping the indices rising. -/
def Mem.write {w : Nat} : Mem w → Nat → BitVec w → Mem w
  | [], a, v => [(a, v)]
  | (b, u) :: rest, a, v =>
    if a < b then (a, v) :: (b, u) :: rest
    else if a = b then (a, v) :: rest
    else (b, u) :: Mem.write rest a v

/-- The canonical form: indices strictly rising. -/
def Mem.wf {w : Nat} : Mem w → Bool
  | [] => true
  | (a, _) :: rest => rest.all (fun p => decide (a < p.1)) && Mem.wf rest

/-- Whether `(y, x)` is a sample of component `c`'s allocated pixel plane (R77). -/
def State.inPlane (s : State) (c : Fin 4) (y x : Nat) : Bool :=
  s.planesAllocated && decide (y < (s.comp.get c).h2.toNat) && decide (x < (s.comp.get c).w2.toNat)

/-- The index of sample `(y, x)`: row-major with stride `w2` (R77). -/
def State.planeIndex (s : State) (c : Fin 4) (y x : Nat) : Nat := y * (s.comp.get c).w2.toNat + x

/-- `PlaneWrite` (R77). -/
def planeWrite (c : Fin 4) (y x : Nat) (v : Byte) : Seq Unit := fun s =>
  if s.inPlane c y x then
    .ok () (s.setComp c { s.comp.get c with plane := (s.comp.get c).plane.write (s.planeIndex c y x) v })
  else .error (.fault .planeIndex) s

/-- `PlaneRead` (R77). -/
def planeRead (c : Fin 4) (y x : Nat) : Seq Byte := fun s =>
  if s.inPlane c y x then
    match (s.comp.get c).plane.read (s.planeIndex c y x) with
    | some v => .ok v s
    | none => .error (.fault .unwrittenSample) s
  else .error (.fault .planeIndex) s

/-- Whether coefficient `i` of block `b` is an element of component `c`'s allocated coefficient plane (R78). -/
def State.inCoef (s : State) (c : Fin 4) (b i : Nat) : Bool :=
  s.planesAllocated && decide (b < (s.comp.get c).coeffW.toNat * (s.comp.get c).coeffH.toNat) && decide (i < 64)

/-- `CoefWrite` (R78). -/
def coefWrite (c : Fin 4) (b i : Nat) (v : BitVec 16) : Seq Unit := fun s =>
  if s.inCoef c b i then
    .ok () (s.setComp c { s.comp.get c with coef := (s.comp.get c).coef.write (64 * b + i) v })
  else .error (.fault .coefIndex) s

/-- `CoefRead` (R78). -/
def coefRead (c : Fin 4) (b i : Nat) : Seq (BitVec 16) := fun s =>
  if s.inCoef c b i then
    match (s.comp.get c).coef.read (64 * b + i) with
    | some v => .ok v s
    | none => .error (.fault .unwrittenCoefficient) s
  else .error (.fault .coefIndex) s

/-! ### The table memories -/

/-- A Huffman table that is read: a table that is not loaded is never read (R36; spec/93 U1: a fault; log 5). -/
def loadedHuff (tc : Fin 2) (th : Fin 4) : Seq HuffTable := fun s =>
  if (s.huffAt tc th).loaded then .ok (s.huffAt tc th) s else .error (.fault .unloadedTable) s

/-- An entry of a fast-AC table, read only when the AC table is loaded (R37, R189). DESIGN CHOICE (log 5): HUF_BUILD issued on its
own loads an AC table without a FASTAC_BUILD; the entry is then what stands in the store, 0 or one of an older table. -/
def loadedFastAc (th : Fin 4) (c : Nat) : Seq (BitVec 16) := fun s =>
  if (s.huffAt 1 th).loaded then .ok (at? (s.fastAc.get th) c 0) s else .error (.fault .unloadedTable) s

/-- A quantisation table that is read: only a loaded one (R38; spec/93 U1; log 5). -/
def loadedQt (t : Fin 4) : Seq (Vector (BitVec 16) 64) := fun s =>
  if s.qtLoaded.get t then .ok (s.qt.get t) s else .error (.fault .unloadedTable) s

/-! ### Events -/

/-- Deliver an event to the host (R84, R85). -/
def State.deliver (e : Event) (s : State) : State := { s with port := { s.port with events := s.port.events ++ [e] } }

/-- The host accepts the pending ROW event (R85): it is delivered and `rows_emitted` counts it. -/
def State.acceptRow (j : BitVec 16) (data : List Byte) (s : State) : State :=
  { s with
    port := { s.port with rowAccepts := s.port.rowAccepts - 1, events := s.port.events ++ [.row j data] }
    rowsEmitted := s.rowsEmitted + 1
    rowPending := none }

/-! ### Initialisations: what ends an error (R413) -/

/-- SOFT_RESET (R441): every piece of state takes its POR value; a held step is abandoned, its bytes stay consumed; a pending
ROW event is withdrawn; events already accepted are not retracted. The host's side of the ports and the parameters stay; no byte
is read before the next START, which drops what the host has offered (log 4). -/
def State.softReset (s : State) : State :=
  { State.reset with cfg := s.cfg, port := { s.port with input := s.port.input.drop s.ctl.held.toNat } }

/-- The phases in which START acts (R417, R442). -/
def Phase.waiting (p : Phase) : Bool :=
  match p with
  | .idle => true
  | .done => true
  | .error => true
  | _ => false

/-- The input port at the start of an image: what the host had offered to the old stream does not exist for the block (R251,
R451), and the next byte it delivers is stream offset 0 (R442). DESIGN CHOICE (log 4): an end-of-stream signal given for the
old stream is dropped with its bytes; the host signals the new stream's end anew. -/
def Port.newImage (p : Port) : Port := { p with input := [], eos := false }

/-- The per-image initialisation (R442): every register at its START value, `irq_en` unchanged, `phase` SOI; the input port
waits for the new image (R451). The parameters and the rest of the host's side of the ports stay (log 2). -/
def State.startImage (s : State) : State :=
  { State.reset with
    cfg := s.cfg
    port := s.port.newImage
    phase := .soi
    ctl := { State.reset.ctl with irqEn := s.ctl.irqEn } }

/-- START (R417, R445): ignored while BUSY. -/
def State.start (s : State) : State := if s.phase.waiting then s.startImage else s

/-- ABORT (R417): ignored in IDLE, DONE and ERROR. -/
def State.requestAbort (s : State) : State :=
  if s.phase.waiting then s else { s with ctl := { s.ctl with abortReq := true } }

/-- A write of CTRL (R27, R417): SOFT_RESET acts first, then START; ABORT in the same write as START is ignored; IRQ_EN takes
the written level (log 10). -/
def State.ctrlWrite (softReset start abort irqEn : Bool) (s : State) : State :=
  let s1 := if softReset then s.softReset else s
  let s2 := if start then s1.start else if abort then s1.requestAbort else s1
  { s2 with ctl := { s2.ctl with irqEn := irqEn } }

end Sys2Proof.Machine
end

