-- ==== Sys2Proof/Machine/Operands.lean ====
section
/-! DEFINITION. The operand forms: zig-zag positions (spec/30_encoding.md R104), magnitude fields (R115), fast-AC entries
(R122), the bits at the top of the accumulator, the block a block operation works on (spec/43_block_decoder.md R272, R273,
R285) with its tables, and the operation of a scan (R270). -/

namespace Sys2Proof.Machine

/-- Rows 0–31 of the table of R104. -/
def dezigzagLow : List Nat :=
  [0, 1, 8, 16, 9, 2, 3, 10, 17, 24, 32, 25, 18, 11, 4, 5, 12, 19, 26, 33, 40, 48, 41, 34, 27, 20, 13, 6, 7, 14, 21, 28]

/-- Rows 32–63 of the table of R104. -/
def dezigzagHigh : List Nat :=
  [35, 42, 49, 56, 57, 50, 43, 36, 29, 22, 15, 23, 30, 37, 44, 51, 58, 59, 52, 45, 38, 31, 39, 46, 53, 60, 61, 54, 47, 55, 62, 63]

/-- `DEZIGZAG[k]` (R104): the natural index of zig-zag position `k`; positions 64..78 are natural index 63, and so is every
later position, which no rule reaches (log 22). -/
def dezigzag (k : Nat) : Fin 64 :=
  if k < 32 then Fin.ofNat 64 (dezigzagLow.getD k 63) else Fin.ofNat 64 (dezigzagHigh.getD (k - 32) 63)

/-- The value of a magnitude field of `n` raw bits `v` (R115, R188): `v` if its top bit is set, else `v - (2^n - 1)`;
category 0 means value 0. -/
def magnitude (n v : Nat) : Int :=
  if n = 0 then 0 else if 2 ^ (n - 1) ≤ v then (v : Int) else (v : Int) - (2 ^ n - 1 : Nat)

/-- The value of a fast-AC entry, bits 15:8 signed (R122). -/
def fastValue (e : BitVec 16) : Int := (e.extractLsb' 8 8).toInt

/-- The zero run of a fast-AC entry, bits 7:4 (R122). -/
def fastRun (e : BitVec 16) : Nat := (e.extractLsb' 4 4).toNat

/-- The bit length of a fast-AC entry, bits 3:0 (R122). -/
def fastLen (e : BitVec 16) : Nat := (e.extractLsb' 0 4).toNat

/-- `code_buffer[31:32-n]` (R185 to R188). -/
def BitMachine.top (b : BitMachine) (n : Nat) : Nat := b.codeBuffer.toNat >>> (32 - n)

/-- `code_bits` as a number (R43: an s8). -/
def BitMachine.count (b : BitMachine) : Int := b.codeBits.toInt

/-- Whether the scan is non-interleaved: one component (R272, R273). -/
def State.single (s : State) : Bool := s.scan.scanN == 1

/-- The component of the block at the scan position (R272: `order[0]`; R273: `order[sk]`). -/
def State.blockComp (s : State) : Fin 4 :=
  if s.single then idx2 (s.scan.order.get 0) else idx2 (s.scan.order.get (idx2 s.pos.sk))

/-- The block's column `gx` in the component's block grid (R272, R273). -/
def State.blockCol (s : State) : Nat :=
  if s.single then s.pos.mcuI.toNat
  else s.pos.mcuI.toNat * (s.comp.get s.blockComp).h.toNat + s.pos.bcol.toNat

/-- The block's row `gy` (R272, R273). -/
def State.blockRow (s : State) : Nat :=
  if s.single then s.pos.mcuJ.toNat
  else s.pos.mcuJ.toNat * (s.comp.get s.blockComp).v.toNat + s.pos.brow.toNat

/-- The block number in the coefficient plane, `gx + gy * coeff_w` (R285). -/
def State.blockNum (s : State) : Nat := s.blockCol + s.blockRow * (s.comp.get s.blockComp).coeffW.toNat

/-- The block's DC table id (R242). -/
def State.dcTable (s : State) : Fin 4 := idx2 (s.comp.get s.blockComp).hd

/-- The block's AC table id (R242). -/
def State.acTable (s : State) : Fin 4 := idx2 (s.comp.get s.blockComp).ha

/-- The block's quantisation table id (R232). -/
def State.qTable (s : State) : Fin 4 := idx2 (s.comp.get s.blockComp).tq

/-- The selector of the operation of every block of the scan (R270). -/
def State.blockOp (s : State) : Byte :=
  if s.frame.progressive = false then 0x10
  else if s.single && s.scan.specStart != 0 then (if s.scan.succHigh = 0 then 0x13 else 0x14)
  else (if s.scan.succHigh = 0 then 0x11 else 0x12)

/-- `2^succ_low` (R276 to R280). -/
def State.lowBit (s : State) : Nat := 2 ^ s.scan.succLow.toNat

/-- The width and height of a component's grid of coded blocks, `ceil_div(x, 8)` and `ceil_div(y, 8)` (R272, R286). -/
def Comp.gridW (c : Comp) : Nat := ceilDiv c.x.toNat 8

/-- See `Comp.gridW`. -/
def Comp.gridH (c : Comp) : Nat := ceilDiv c.y.toNat 8

/-- The columns of the scan's MCU grid (R272, R273). -/
def State.mcuCols (s : State) : Nat := if s.single then (s.comp.get s.blockComp).gridW else s.frame.mcuX.toNat

/-- The rows of the scan's MCU grid (R272, R273). -/
def State.mcuRows (s : State) : Nat := if s.single then (s.comp.get s.blockComp).gridH else s.frame.mcuY.toNat

/-- Whether all MCUs of the scan are done (R272, R273). -/
def State.scanDone (s : State) : Bool := s.pos.mcuJ.toNat == s.mcuRows

/-- Whether the MCU at the scan position is the scan's last (R272, R273). -/
def State.lastMcu (s : State) : Bool := s.pos.mcuI.toNat + 1 == s.mcuCols && s.pos.mcuJ.toNat + 1 == s.mcuRows

end Sys2Proof.Machine
end

