-- ==== Sys2Proof/Machine/Flags.lean ====
section
/-! DEFINITION. The flags and status the host sees: the CSR window (spec/10_state.md R26 to R35), the interrupt line
(spec/60_exceptions.md R415), and the colour decisions (spec/47_color_output.md R371, R372). -/

namespace Sys2Proof.Machine

/-- The code of a phase (R21). -/
def Phase.code (p : Phase) : BitVec 4 :=
  match p with
  | .idle => 0
  | .soi => 1
  | .header => 2
  | .frame => 3
  | .scan => 4
  | .finish => 5
  | .output => 6
  | .done => 7
  | .error => 8

/-- `BUSY` (R28): a phase of SOI to OUTPUT. -/
def Phase.busy (p : Phase) : Bool := !p.waiting

/-- The interrupt output (R415). -/
def State.irq (s : State) : Bool := s.ctl.irqEn && (s.phase == .done || s.phase == .error)

/-- One bit as a number. -/
def bit (b : Bool) : Nat := b.toNat

/-- `CTRL` as read (R27): the command bits read 0. -/
def State.csrCtrl (s : State) : BitVec 32 := BitVec.ofNat 32 (8 * bit s.ctl.irqEn)

/-- `STATUS` (R28). -/
def State.csrStatus (s : State) : BitVec 32 :=
  BitVec.ofNat 32 (bit s.phase.busy + 2 * bit (s.phase == .done) + 4 * bit (s.phase == .error) + 8 * bit s.ctl.geomValid
    + 16 * bit s.ctl.stallIn + 32 * bit s.rowPending.isSome + 64 * bit s.ctl.abortReq
    + 256 * s.phase.code.toNat + 4096 * bit s.frame.progressive)

/-- `ERROR` (R29). -/
def State.csrError (s : State) : BitVec 32 := BitVec.ofNat 32 (s.errCode.toNat + 256 * s.errClass.toNat)

/-- `IMG_SIZE` (R30). -/
def State.csrImgSize (s : State) : BitVec 32 := s.frame.imgY ++ s.frame.imgX

/-- `is_rgb` (R371). -/
def State.isRgbFrame (s : State) : Bool :=
  s.frame.imgN == 3 && (s.flags.rgbIds == 3 || (s.flags.app14Valid && s.flags.app14 == 0 && !s.flags.jfif))

/-- Bit 17 of `IMG_INFO` (R31): the value of R371 in phases OUTPUT and DONE, 0 before. DESIGN CHOICE (log 34): in phase ERROR,
which R31 does not name, it shows the register `is_rgb` of R370. -/
def State.isRgbShown (s : State) : Bool :=
  match s.phase with
  | .output => s.isRgbFrame
  | .done => s.isRgbFrame
  | .error => s.flags.isRgb
  | .idle => false
  | .soi => false
  | .header => false
  | .frame => false
  | .scan => false
  | .finish => false

/-- `IMG_INFO` (R31). -/
def State.csrImgInfo (s : State) : BitVec 32 :=
  BitVec.ofNat 32 (s.frame.imgN.toNat + 8 * s.frame.outN.toNat + 64 * bit s.frame.progressive + 128 * bit s.flags.jfif
    + 256 * bit s.flags.app14Valid + 512 * (if s.flags.app14Valid then s.flags.app14.toNat else 0)
    + 131072 * bit s.isRgbShown)

/-- `BYTE_POS` (R32): it counts every byte consumed so far, those of a held step too (R91). -/
def State.csrBytePos (s : State) : BitVec 32 := s.bytePos + s.ctl.held

/-- `LAST_MARKER` (R34). -/
def State.csrLastMarker (s : State) : BitVec 32 := BitVec.ofNat 32 (s.lastMarker.toNat + 256 * bit s.lastMarkerValid)

/-- `PARAMS` (R35). -/
def State.csrParams (s : State) : BitVec 32 :=
  BitVec.ofNat 32 (9 + 16 * 4 + 256 * 4 + 4096 * bit s.cfg.strictBaselineSpecEnd)

/-- A host read of the CSR window (R26): no side effect; an offset that is not listed reads 0; an access that is not a 32-bit
access at a multiple of 4 is not offered (R80). -/
def State.csrRead (s : State) (offset : BitVec 6) : Option (BitVec 32) :=
  if offset.toNat % 4 ≠ 0 then none
  else match offset.toNat with
    | 0x00 => some s.csrCtrl
    | 0x04 => some s.csrStatus
    | 0x08 => some s.csrError
    | 0x0C => some s.csrImgSize
    | 0x10 => some s.csrImgInfo
    | 0x14 => some s.csrBytePos
    | 0x18 => some s.rowsEmitted
    | 0x1C => some s.csrLastMarker
    | 0x20 => some s.csrParams
    | _ => some 0

/-- The selector of the colour conversion (R372). -/
def State.colourOp (s : State) : Byte :=
  if s.frame.imgN = 1 then 0x40
  else if s.frame.imgN = 3 then (if s.isRgbFrame then 0x41 else 0x42)
  else if s.flags.app14Valid && s.flags.app14 == 0 then 0x43
  else if s.flags.app14Valid && s.flags.app14 == 2 then 0x44
  else 0x45

end Sys2Proof.Machine
end

