-- ==== Sys2Proof/Machine/Color.lean ====
section
/-! DEFINITION. The colour conversions (spec/47_color_output.md R373 to R379) and their meanings on the pixel of the unit
port. -/

namespace Sys2Proof.Machine

/-- The samples of one pixel, in frame order. -/
abbrev Samples := Vector Byte 4

/-- `floor64k(x)` (R375): the low 16 bits cleared, toward minus infinity. -/
def floor64k (x : Int) : Int := x - x % 65536

/-- `yf` (R375). -/
def yccBase (Y : Byte) : Int := (Y.toNat : Int) * 1048576 + 524288

/-- The red of `ycc` (R375). -/
def yccRed (Y Cr : Byte) : Byte := clamp255 ((yccBase Y + ((Cr.toNat : Int) - 128) * 1470208) >>> 20)

/-- The green of `ycc` (R375). -/
def yccGreen (Y Cb Cr : Byte) : Byte :=
  clamp255 ((yccBase Y + ((Cr.toNat : Int) - 128) * (-748800) + floor64k (((Cb.toNat : Int) - 128) * (-360960))) >>> 20)

/-- The blue of `ycc` (R375). -/
def yccBlue (Y Cb : Byte) : Byte := clamp255 ((yccBase Y + ((Cb.toNat : Int) - 128) * 1858048) >>> 20)

/-- `blinn(x, y)` (R379). -/
def blinn (x y : Byte) : Byte :=
  let t := x.toNat * y.toNat + 128
  BitVec.ofNat 8 ((t + (t >>> 8)) >>> 8)

/-- CC_GRAY (R373). -/
def ccGray (c : Samples) : List Byte := [c.get 0]

/-- CC_RGB (R374). -/
def ccRgb (c : Samples) : List Byte := [c.get 0, c.get 1, c.get 2]

/-- CC_YCBCR (R375). -/
def ccYcbcr (c : Samples) : List Byte :=
  [yccRed (c.get 0) (c.get 2), yccGreen (c.get 0) (c.get 1) (c.get 2), yccBlue (c.get 0) (c.get 1)]

/-- CC_CMYK (R376). -/
def ccCmyk (c : Samples) : List Byte := [blinn (c.get 0) (c.get 3), blinn (c.get 1) (c.get 3), blinn (c.get 2) (c.get 3)]

/-- CC_YCCK (R377). -/
def ccYcck (c : Samples) : List Byte := (ccYcbcr c).map (fun p => blinn (255 - p) (c.get 3))

/-- CC_YCBCR_K (R378): the fourth component is ignored. -/
def ccYcbcrK (c : Samples) : List Byte := ccYcbcr c

/-- The conversion of a selector (R372). -/
def convert (sel : Byte) (c : Samples) : List Byte :=
  if sel = 0x40 then ccGray c
  else if sel = 0x41 then ccRgb c
  else if sel = 0x42 then ccYcbcr c
  else if sel = 0x43 then ccCmyk c
  else if sel = 0x44 then ccYcck c
  else ccYcbcrK c

/-! ### Meanings -/

/-- Convert the pixel of the unit port. -/
def convertPixel (f : Samples → List Byte) : Seq Unit :=
  upd (fun s => s.setUnit { s.unit with pixel := f s.unit.samples })

/-- CC_GRAY (R373). -/
def execCcGray (s : State) : Host.Outcome State Fault Refusal := runOp (convertPixel ccGray) s

/-- CC_RGB (R374). -/
def execCcRgb (s : State) : Host.Outcome State Fault Refusal := runOp (convertPixel ccRgb) s

/-- CC_YCBCR (R375). -/
def execCcYcbcr (s : State) : Host.Outcome State Fault Refusal := runOp (convertPixel ccYcbcr) s

/-- CC_CMYK (R376). -/
def execCcCmyk (s : State) : Host.Outcome State Fault Refusal := runOp (convertPixel ccCmyk) s

/-- CC_YCCK (R377). -/
def execCcYcck (s : State) : Host.Outcome State Fault Refusal := runOp (convertPixel ccYcck) s

/-- CC_YCBCR_K (R378). -/
def execCcYcbcrK (s : State) : Host.Outcome State Fault Refusal := runOp (convertPixel ccYcbcrK) s

end Sys2Proof.Machine
end

