-- ==== Sys2Proof/Machine/Ctrl.lean ====
section
/-! DEFINITION. The meanings of the host commands (spec/60_exceptions.md R417; spec/70_reset_and_hazards.md R441, R442, R445):
one write of CTRL (R27). A command acts between two steps, or during a stall; it touches the held step only where SOFT_RESET
abandons it. -/

namespace Sys2Proof.Machine

/-- CTRL_START (R442, R445), with the ABORT (ignored, R417) and IRQ_EN bits of the same write. -/
def execCtrlStart (abort irqEn : Bool) (s : State) : Host.Outcome State Fault Refusal :=
  .next (s.ctrlWrite false true abort irqEn)

/-- CTRL_ABORT (R417, R418), with the IRQ_EN bit of the same write. -/
def execCtrlAbort (irqEn : Bool) (s : State) : Host.Outcome State Fault Refusal :=
  .next (s.ctrlWrite false false true irqEn)

/-- CTRL_SOFT_RESET (R441), with the START, ABORT and IRQ_EN bits of the same write. -/
def execCtrlSoftReset (start abort irqEn : Bool) (s : State) : Host.Outcome State Fault Refusal :=
  .next (s.ctrlWrite true start abort irqEn)

/-- CTRL_IRQ_EN (R415, R417): a write of CTRL with no command bit. -/
def execCtrlIrqEn (level : Bool) (s : State) : Host.Outcome State Fault Refusal :=
  .next (s.ctrlWrite false false false level)

end Sys2Proof.Machine
end

