-- ==== Sys2Proof/Machine/Huffman.lean ====
section
/-! DEFINITION. The Huffman table store (spec/40_huffman.md): the canonical build, the fast table, the fast-AC table, and the
meanings of HUF_BUILD and FASTAC_BUILD. -/

namespace Sys2Proof.Machine

/-- The sum of the counts, `n` (R150, R156). -/
def countSum (counts : Vector Byte 16) : Nat := (counts.toList.map BitVec.toNat).sum

/-- The code lengths of the symbols in order: `counts[len]` times `len` for `len` in 1..16 (R150). -/
def sizeList (counts : Vector Byte 16) : List Nat :=
  (List.range 16).flatMap (fun l => List.replicate (at? counts l 0).toNat (l + 1))

/-- Write a list into a fixed table from position `k` on. -/
def putFrom {α : Type} {n : Nat} (v : Vector α n) (k : Nat) : List α → Vector α n
  | [] => v
  | x :: xs => putFrom (put v k x) (k + 1) xs

/-- HUF_BUILD step 1 (R150): the size list and its terminator 0. -/
def buildSizes (counts : Vector Byte 16) (T : HuffTable) : HuffTable :=
  { T with size := putFrom T.size 0 ((sizeList counts).map (BitVec.ofNat 5) ++ [0]) }

/-- The state of HUF_BUILD step 2: the table, the next symbol index `k` and the next code (R151). -/
structure Canon where
  T : HuffTable
  k : Nat
  code : Nat
  deriving DecidableEq, Repr

/-- `while T.size[k] = len: T.code[k] <- code; k <- k + 1; code <- code + 1` (R151); the size list is finite, so the count
bounds no run. DESIGN CHOICE (log 32): in a build that fails at length 16 (R151) a code assigned before the check can be 2^16 or
more, which the u16 `code[k]` of R36 does not hold; the model keeps its low 16 bits in the partial table. -/
def assignCodes (len : Nat) : Nat → Canon → Canon
  | 0, c => c
  | n + 1, c =>
    if (at? c.T.size c.k 0).toNat = len then
      assignCodes len n { T := { c.T with code := put c.T.code c.k (BitVec.ofNat 16 c.code) }, k := c.k + 1, code := c.code + 1 }
    else c

/-- One length of HUF_BUILD step 2 up to its check (R151): `delta[len]` and the codes of the length. -/
def canonCodes (len : Nat) (c : Canon) : Canon :=
  assignCodes len 257
    { c with T := { c.T with delta := put c.T.delta (len - 1) (BitVec.ofInt 32 ((c.k : Int) - (c.code : Int))) } }

/-- The check of a length that has codes: its last code must fit in `len` bits (R151). -/
def codesOverflow (len : Nat) (before after : Canon) : Bool :=
  decide (before.k < after.k) && decide (2 ^ len ≤ after.code - 1)

/-- The end of a length (R151, R152): `maxcode[len]`, then the next length's first code. -/
def canonNext (len : Nat) (c : Canon) : Canon :=
  { c with T := { c.T with maxcode := put c.T.maxcode (len - 1) (BitVec.ofNat 32 (c.code <<< (16 - len))) }, code := c.code <<< 1 }

/-- HUF_BUILD step 2 over the lengths of a list (R151): the table, and whether a length overflowed (BadCodeLengths), which
leaves the table partially built. -/
def canonLoop : List Nat → Canon → HuffTable × Bool
  | [], c => (c.T, false)
  | len :: rest, c =>
    let c' := canonCodes len c
    if codesOverflow len c c' then (c'.T, true) else canonLoop rest (canonNext len c')

/-- HUF_BUILD step 2 (R151). -/
def buildCodes (T : HuffTable) : HuffTable × Bool :=
  canonLoop [1, 2, 3, 4, 5, 6, 7, 8, 9, 10, 11, 12, 13, 14, 15, 16] { T := T, k := 0, code := 0 }

/-- HUF_BUILD step 3 (R152): the sentinel `maxcode[17]`. -/
def buildSentinel (T : HuffTable) : HuffTable := { T with maxcode := put T.maxcode 16 0xFFFFFFFF }

/-- Whether symbol `i` is written into slot `c` of the fast table: its code has at most 9 bits and is a prefix of `c` (R153:
`base <= c < base + 2^(9-s)` with `base` = `code[i] << (9-s)`). -/
def fastCovers (T : HuffTable) (c i : Nat) : Bool :=
  let s := (at? T.size i 0).toNat
  let base := (at? T.code i 0).toNat <<< (9 - s)
  decide (s ≤ 9) && decide (base ≤ c) && decide (c < base + 2 ^ (9 - s))

/-- Slot `c` of the fast table after the loop of R153 over the first `n` symbols: the last symbol written there, 255 if none. -/
def fastSlot (T : HuffTable) (c : Nat) : Nat → Nat
  | 0 => 255
  | n + 1 => if fastCovers T c n then n else fastSlot T c n

/-- HUF_BUILD step 4 (R153): the fast table holds symbol indices. -/
def buildFast (n : Nat) (T : HuffTable) : HuffTable :=
  { T with fast := Vector.ofFn (fun c : Fin 512 => BitVec.ofNat 8 (fastSlot T c.val n)) }

/-- `HUF_BUILD(tc, th, counts, n)` (R156). DESIGN CHOICE (log 33): R156 asks for `loaded` = 0, which DHT sees to (R218); issued on
its own on a loaded table the build runs all the same, and on BadCodeLengths `loaded` keeps the value it had. -/
def hufBuild (tc : Fin 2) (th : Fin 4) (counts : Vector Byte 16) : Seq Unit := do
  let T ← look (fun s => s.huffAt tc th)
  let n := countSum counts
  if 256 < n then modelFault .countsPrecondition
  else do
    let r := buildCodes (buildSizes counts T)
    upd (fun s => s.setHuff tc th r.1)
    check r.2 .badCodeLengths
    upd (fun s => s.setHuff tc th { buildFast n (buildSentinel r.1) with nsym := BitVec.ofNat 9 n, loaded := true })

/-- The magnitude bits of slot `c` after a code of `len` bits: `((c << len) & 511) >> (9 - mag)` (R154). -/
def fastAcBits (c len mag : Nat) : Nat := ((c <<< len) % 512) >>> (9 - mag)

/-- One entry of the fast-AC table (R155; layout R122). -/
def fastAcEntry (T : HuffTable) (c : Nat) : BitVec 16 :=
  let f := (at? T.fast c 255).toNat
  if f < 255 then
    let rs := (at? T.values f 0).toNat
    let run := rs / 16
    let mag := rs % 16
    let len := (at? T.size f 0).toNat
    if mag ≠ 0 ∧ len + mag ≤ 9 then
      let value := magnitude mag (fastAcBits c len mag)
      if -128 ≤ value ∧ value ≤ 127 then trunc16 (value * 256 + (run * 16 : Nat) + (len + mag : Nat)) else 0
    else 0
  else 0

/-- `FASTAC_BUILD(th)` (R155): all 512 entries, from a table that has been built (log 5). -/
def fastacBuild (th : Fin 4) : Seq Unit := do
  let T ← loadedHuff 1 th
  upd (fun s => s.setFastAc th (Vector.ofFn (fun c : Fin 512 => fastAcEntry T c.val)))

/-! ### Meanings -/

/-- HUF_BUILD (R156) on the class, id and counts of the unit port. -/
def execHufBuild (s : State) : Host.Outcome State Fault Refusal :=
  runOp (hufBuild (idx1 s.unit.tc) (idx2 s.unit.th) s.unit.counts) s

/-- FASTAC_BUILD (R155) on the AC table id of the unit port. -/
def execFastacBuild (s : State) : Host.Outcome State Fault Refusal := runOp (fastacBuild (idx2 s.unit.th)) s

end Sys2Proof.Machine
end

