-- ==== Sys2Proof/Machine/Bits.lean ====
section
/-! DEFINITION. The bit-entropy machine (spec/41_bit_entropy.md): its operations, and the meanings of FILL, DECODE_HUFF,
GET_BITS, GET_BIT and RECEIVE_EXTEND. -/

namespace Sys2Proof.Machine

/-! ### Filling (41.1) -/

/-- `code_buffer <- code_buffer | (b << (24 - code_bits)); code_bits <- code_bits + 8` (R180). -/
def BitMachine.append (b : Byte) (m : BitMachine) : BitMachine :=
  { m with codeBuffer := m.codeBuffer ||| (b.zeroExtend 32 <<< (24 - m.count).toNat), codeBits := m.codeBits + 8 }

/-- A marker met in the entropy-coded data: `marker <- c; no_more_bits <- 1` (R180). -/
def BitMachine.latch (c : Byte) (m : BitMachine) : BitMachine := { m with marker := c, noMoreBits := true }

/-- `Consume(n)` (R181). -/
def BitMachine.consume (n : Nat) (m : BitMachine) : BitMachine :=
  { m with codeBuffer := m.codeBuffer <<< n, codeBits := m.codeBits - BitVec.ofNat 8 n }

/-- Append one data byte to the accumulator. -/
def appendByte (b : Byte) : Seq Unit := upd (fun s => s.setBits (s.bits.append b))

/-- Latch a marker. -/
def latchMarker (c : Byte) : Seq Unit := upd (fun s => s.setBits (s.bits.latch c))

/-- `Consume(n)` (R181). -/
def consume (n : Nat) : Seq Unit := upd (fun s => s.setBits (s.bits.consume n))

/-- What follows a byte 0xFF of the entropy-coded data (R180): fill bytes, then a stuffed zero, or a marker. Whether a data
byte was appended. -/
def afterFF : Seq Bool := do
  let n ← supplied
  let c ← readPastFF n
  if c = 0 then do
    appendByte 0xFF
    pure true
  else do
    latchMarker c
    pure false

/-- One round of FillBits (R180): zero-fill after a marker, else one byte of input. Whether a data byte was appended. -/
def fillRound : Seq Bool := do
  let stopped ← look (fun s => s.bits.noMoreBits)
  if stopped then do
    appendByte 0
    pure true
  else do
    let b ← readU8
    if b = 0xFF then afterFF
    else do
      appendByte b
      pure true

/-- `do ... while code_bits <= 24` (R180). Each round that goes on adds 8 bits, so the count bounds no run (log 20). -/
def fillLoop : Nat → Seq Unit
  | 0 => pure ()
  | n + 1 => do
    let more ← fillRound
    let again ← look (fun s => decide (s.bits.count ≤ 24))
    if more && again then fillLoop n else pure ()

/-- `FillBits()` (R180). -/
def fillBits : Seq Unit := do
  let full ← look (fun s => decide (24 < s.bits.count))
  if full then modelFault .fillPrecondition else fillLoop 20

/-- `if code_bits < n: FillBits()`. -/
def fillBelow (n : Nat) : Seq Unit := do
  let short ← look (fun s => decide (s.bits.count < (n : Int)))
  onlyIf short fillBits

/-! ### Huffman decode (41.2) -/

/-- The length search of the slow path (R184): the first length `k` from the list with `temp < maxcode[k]`, else 17, where the
sentinel stops it. -/
def slowLength (T : HuffTable) (temp : Nat) : List Nat → Nat
  | [] => 17
  | k :: ks => if temp < (at? T.maxcode (k - 1) 0).toNat then k else slowLength T temp ks

/-- `raise BadHuffmanCode` if `n > code_bits`, else `Consume(n)`. -/
def takeCode (n : Nat) : Seq Unit := do
  let short ← look (fun s => decide (s.bits.count < (n : Int)))
  check short .badHuffmanCode
  consume n

/-- The slow path (R184, R185). -/
def decodeSlow (T : HuffTable) : Seq Byte := do
  let temp ← look (fun s => s.bits.top 16)
  let k := slowLength T temp [9, 10, 11, 12, 13, 14, 15, 16]
  check (k == 17) .badHuffmanCode
  let short ← look (fun s => decide (s.bits.count < (k : Int)))
  check short .badHuffmanCode
  let i ← look (fun s => (s.bits.top k : Int) + (at? T.delta (k - 1) 0).toInt)
  check (decide (i < 0) || decide (255 < i)) .badHuffmanCode
  consume k
  pure (at? T.values i.toNat 0)

/-- The fast path (R183): the slot holds the index of the symbol. -/
def decodeFast (T : HuffTable) (i : Nat) : Seq Byte := do
  takeCode (at? T.size i 0).toNat
  pure (at? T.values i 0)

/-- `DecodeHuffman(T)` (R182) with `T` = `huff[tc][th]`. -/
def decodeHuffman (tc : Fin 2) (th : Fin 4) : Seq Byte := do
  fillBelow 16
  let T ← loadedHuff tc th
  let c ← look (fun s => s.bits.top 9)
  let i := (at? T.fast c 255).toNat
  if i < 255 then decodeFast T i else decodeSlow T

/-! ### Raw bits (41.3) -/

/-- The next `n` bits, or 0 with nothing consumed when fewer are there after the fill (R186, R187, R188). -/
def rawBits {α : Type} (n : Nat) (f : Nat → α) (short : α) : Seq α := do
  fillBelow n
  let few ← look (fun s => decide (s.bits.count < (n : Int)))
  if few then pure short
  else do
    let v ← look (fun s => s.bits.top n)
    consume n
    pure (f v)

/-- `GetBits(n)` (R186). -/
def getBits (n : Nat) : Seq Nat := rawBits n id 0

/-- `GetBit()` (R187). -/
def getBit : Seq Bool := rawBits 1 (fun v => v == 1) false

/-- `ReceiveExtend(n)` (R188). -/
def receiveExtend (n : Nat) : Seq Int := rawBits n (magnitude n) 0

/-! ### Fast-AC peek (41.4) -/

/-- `PeekFastAc(th)` (R189). -/
def peekFastAc (th : Fin 4) : Seq (BitVec 16) := do
  let c ← look (fun s => s.bits.top 9)
  loadedFastAc th c

/-! ### Meanings -/

/-- FILL (R180). -/
def execFill (s : State) : Host.Outcome State Fault Refusal := runOp fillBits s

/-- DECODE_HUFF (R182) on the table of the unit port; the symbol byte goes to the result register. -/
def execDecodeHuff (s : State) : Host.Outcome State Fault Refusal :=
  runUnit (decodeHuffman (idx1 s.unit.tc) (idx2 s.unit.th)) (fun b => b.zeroExtend 32) s

/-- GET_BITS (R186) of the count in the unit port. -/
def execGetBits (s : State) : Host.Outcome State Fault Refusal :=
  runUnit (getBits s.unit.n.toNat) (BitVec.ofNat 32) s

/-- GET_BIT (R187). -/
def execGetBit (s : State) : Host.Outcome State Fault Refusal :=
  runUnit getBit (fun b => if b then 1 else 0) s

/-- RECEIVE_EXTEND (R188) of the count in the unit port; the result is an s32. -/
def execReceiveExtend (s : State) : Host.Outcome State Fault Refusal :=
  runUnit (receiveExtend s.unit.n.toNat) wrap32 s

end Sys2Proof.Machine
end

