-- ==== Sys2Proof/Machine/Parser.lean ====
section
/-! DEFINITION. Marker reading and the table and parameter segments (spec/42_marker_parser.md 42.2, 42.3), and the meanings of
GET_MARKER and SEEK_MARKER. Fields are read in stream order and each check stands where its field has been read (R406). -/

namespace Sys2Proof.Machine

/-! ### Marker reading -/

/-- GetMarker has returned a code other than NONE (R34, R212). -/
def noteMarker (x : Byte) : Seq Byte := do
  upd (fun s => { s with lastMarker := x, lastMarkerValid := true })
  pure x

/-- `GetMarker()` (R212): a code byte, or NONE (0xFF). -/
def getMarker : Seq Byte := do
  let m ← look (fun s => s.bits.marker)
  if m ≠ 0xFF then do
    upd (fun s => s.setBits { s.bits with marker := 0xFF })
    noteMarker m
  else do
    let x ← readU8
    if x ≠ 0xFF then pure 0xFF
    else do
      let n ← supplied
      let c ← readPastFF n
      noteMarker c

/-- The search of SeekMarker (R248); each round takes a byte, so the bytes supplied bound the loop. -/
def seekLoop : Nat → Seq Unit
  | 0 => do
    let _ ← readU8
    pure ()
  | n + 1 => do
    let x ← readU8
    if x ≠ 0xFF then seekLoop n
    else do
      let m ← supplied
      let c ← readPastFF m
      if c ≠ 0 then upd (fun s => s.setBits { s.bits with marker := c }) else seekLoop n

/-- `SeekMarker()` (R248). -/
def seekMarker : Seq Unit := do
  let n ← supplied
  seekLoop n

/-! ### DQT (R217) -/

/-- One entry of a definition: two bytes for precision 1, one for precision 0 (R105). -/
def dqtEntry (p : Nat) : Seq (BitVec 16) :=
  if p = 1 then readU16
  else do
    let b ← readU8
    pure (b.zeroExtend 16)

/-- The entries at the zig-zag positions of a list, stored in natural order (R103, R217). -/
def dqtEntries (p : Nat) (t : Fin 4) : List Nat → Seq Unit
  | [] => pure ()
  | k :: ks => do
    let v ← dqtEntry p
    upd (fun s => s.setQt t (dezigzag k) v)
    dqtEntries p t ks

/-- One table definition (R217): its size in bytes. -/
def dqtTable : Seq Int := do
  let q ← readU8
  let p := q.toNat / 16
  let t := q.toNat % 16
  check (decide (1 < p)) .badDqtType
  check (decide (3 < t)) .badDqtTable
  dqtEntries p (Fin.ofNat 4 t) (List.range 64)
  upd (fun s => s.setQtLoaded (Fin.ofNat 4 t))
  pure (if p = 1 then 129 else 65)

/-- `while L > 0` of R217: what is left of the length. Each round takes 65 or 129, so the count bounds no run. -/
def dqtLoop : Nat → Int → Seq Int
  | 0, L => pure L
  | n + 1, L =>
    if 0 < L then do
      let size ← dqtTable
      dqtLoop n (L - size)
    else pure L

/-- DQT (R217). -/
def segDqt : Seq Unit := do
  let Lq ← readU16
  let L ← dqtLoop Lq.toNat ((Lq.toNat : Int) - 2)
  check (L != 0) .badDqtLength

/-! ### DHT (R218) -/

/-- Read `n` bytes. -/
def readBytes : Nat → Seq (List Byte)
  | 0 => pure []
  | n + 1 => do
    let b ← readU8
    let rest ← readBytes n
    pure (b :: rest)

/-- The counts of a definition as a fixed table (R106). -/
def countsOf (l : List Byte) : Vector Byte 16 := Vector.ofFn (fun i : Fin 16 => l.getD i.val 0)

/-- The symbol values `values[i]`, `values[i + 1]`, ..., as many as the count says (R218). -/
def dhtValues (tc : Fin 2) (th : Fin 4) : Nat → Nat → Seq Unit
  | _, 0 => pure ()
  | i, n + 1 => do
    let v ← readU8
    upd (fun s => let T := s.huffAt tc th; s.setHuff tc th { T with values := put T.values i v })
    dhtValues tc th (i + 1) n

/-- One table definition (R218): its size in bytes. -/
def dhtTable : Seq Int := do
  let q ← readU8
  let tc := q.toNat / 16
  let th := q.toNat % 16
  check (decide (1 < tc) || decide (3 < th)) .badDhtHeader
  let l ← readBytes 16
  let counts := countsOf l
  let n := countSum counts
  check (decide (256 < n)) .badDhtHeader
  upd (fun s => let T := s.huffAt (Fin.ofNat 2 tc) (Fin.ofNat 4 th)
    s.setHuff (Fin.ofNat 2 tc) (Fin.ofNat 4 th) { T with loaded := false })
  dhtValues (Fin.ofNat 2 tc) (Fin.ofNat 4 th) 0 n
  hufBuild (Fin.ofNat 2 tc) (Fin.ofNat 4 th) counts
  onlyIf (tc == 1) (fastacBuild (Fin.ofNat 4 th))
  pure (17 + (n : Int))

/-- `while L > 0` of R218: what is left of the length. Each round takes 17 or more, so the count bounds no run. -/
def dhtLoop : Nat → Int → Seq Int
  | 0, L => pure L
  | n + 1, L =>
    if 0 < L then do
      let size ← dhtTable
      dhtLoop n (L - size)
    else pure L

/-- DHT (R218). -/
def segDht : Seq Unit := do
  let Lh ← readU16
  let L ← dhtLoop Lh.toNat ((Lh.toNat : Int) - 2)
  check (L != 0) .badDhtLength

/-! ### DRI (R219) -/

/-- DRI (R219). -/
def segDri : Seq Unit := do
  let Lr ← readU16
  check (Lr != 4) .badDriLength
  let Ri ← readU16
  upd (fun s => { s with restartInterval := Ri })

/-! ### APPn and COM (R220 to R222) -/

/-- "JFIF\0" (R110). -/
def jfifTag : List Byte := [0x4A, 0x46, 0x49, 0x46, 0x00]

/-- "Adobe\0" (R110). -/
def adobeTag : List Byte := [0x41, 0x64, 0x6F, 0x62, 0x65, 0x00]

/-- `JfifCheck(L)` (R221): all five bytes are read even after a mismatch. -/
def jfifCheck (L : Nat) : Seq Nat := do
  let l ← readBytes 5
  onlyIf (l == jfifTag) (upd (fun s => s.setFlags { s.flags with jfif := true }))
  pure (L - 5)

/-- The Adobe fields after the tag (R222): version and flags are ignored, the transform is captured. -/
def adobeFields : Seq Unit := do
  let _ ← readU8
  let _ ← readU16
  let _ ← readU16
  let t ← readU8
  upd (fun s => s.setFlags { s.flags with app14 := t, app14Valid := true })

/-- `AdobeCheck(L)` (R222): all six bytes are read even after a mismatch. -/
def adobeCheck (L : Nat) : Seq Nat := do
  let l ← readBytes 6
  if l = adobeTag then do
    adobeFields
    pure (L - 6 - 6)
  else pure (L - 6)

/-- The payload of an APPn or COM segment (R220): what each marker recognises, then the rest is skipped. -/
def segApp (recognise : Nat → Seq Nat) : Seq Unit := do
  let L ← readU16
  check (decide (L.toNat < 2)) .badSegmentLength
  let rest ← recognise (L.toNat - 2)
  skip rest

/-- Nothing is recognised (R220). -/
def recogniseNone (L : Nat) : Seq Nat := pure L

/-- APP0: JFIF when the payload has at least 5 bytes (R220). -/
def recogniseJfif (L : Nat) : Seq Nat := if 5 ≤ L then jfifCheck L else pure L

/-- APP14: Adobe when the payload has at least 12 bytes (R220). -/
def recogniseAdobe (L : Nat) : Seq Nat := if 12 ≤ L then adobeCheck L else pure L

/-! ### DNL (R249) -/

/-- DNL (R249): both fields are read before either is checked. -/
def segDnl : Seq Unit := do
  let Ld ← readU16
  let NL ← readU16
  check (Ld != 4) .badDnlLength
  let y ← look (fun s => s.frame.imgY)
  check (NL != y) .badDnlHeight

/-! ### Meanings -/

/-- GET_MARKER (R212): the code, or NONE, goes to the result register. -/
def execGetMarker (s : State) : Host.Outcome State Fault Refusal := runUnit getMarker (fun b => b.zeroExtend 32) s

/-- SEEK_MARKER (R248). -/
def execSeekMarker (s : State) : Host.Outcome State Fault Refusal := runOp seekMarker s

end Sys2Proof.Machine
end

