-- ==== Sys2Proof/Machine/Restart.lean ====
section
/-! DEFINITION. The restart-marker FSM (spec/44_restart_fsm.md), and the meanings of RESET and RESTART. -/

namespace Sys2Proof.Machine

/-- The bit machine after Reset (R310): empty, no marker. -/
def BitMachine.cleared : BitMachine where
  codeBuffer := 0
  codeBits := 0
  noMoreBits := false
  marker := 0xFF

/-- The value Reset loads into `todo` (R310, R311). -/
def State.todoStart (s : State) : BitVec 32 :=
  if s.restartInterval ≠ 0 then s.restartInterval.zeroExtend 32 else 0x7FFFFFFF

/-- `Reset()` (R310). -/
def State.resetEntropy (s : State) : State :=
  { s with
    bits := BitMachine.cleared
    comp := s.comp.map (fun c => { c with dcPred := 0 })
    scan := { s.scan with eobRun := 0 }
    todo := s.todoStart }

/-- Whether a marker is RST0 to RST7 (R313). -/
def isRst (m : Byte) : Bool := decide (0xD0 ≤ m.toNat) && decide (m.toNat ≤ 0xD7)

/-- `RestartCheck(last)` (R313). -/
def restartCheck (last : Bool) : Seq Unit := do
  upd (fun s => s.setTodo (s.todo - 1))
  let due ← look (fun s => decide (s.todo.toInt ≤ 0))
  if due && !last then do
    fillBelow 24
    let m ← look (fun s => s.bits.marker)
    check (!isRst m) .noResetMarker
    upd State.resetEntropy
  else pure ()

/-! ### Meanings -/

/-- RESET (R310). -/
def execReset (s : State) : Host.Outcome State Fault Refusal := runOp (upd State.resetEntropy) s

/-- RESTART (R313) with the `last` of the unit port. -/
def execRestart (s : State) : Host.Outcome State Fault Refusal := runOp (restartCheck s.unit.last) s

end Sys2Proof.Machine
end

