-- ==== Sys2Proof/Machine/Header.lean ====
section
/-! DEFINITION. The frame header (spec/42_marker_parser.md R230 to R238), the scan header (R241 to R246, with R271), and the end
of the image (R250). -/

namespace Sys2Proof.Machine

/-! ### Frame header -/

/-- Write the frame registers. -/
def updFrame (f : Frame → Frame) : Seq Unit := upd (fun s => s.setFrame (f s.frame))

/-- Write one component record. -/
def updComp (i : Fin 4) (f : Comp → Comp) : Seq Unit := upd (fun s => s.setComp i (f (s.comp.get i)))

/-- Frame header fields (R231). -/
def sofFields : Seq Unit := do
  let Lf ← readU16
  check (decide (Lf.toNat < 11)) .badSofLength
  let P ← readU8
  check (P != 8) .badPrecision
  let Y ← readU16
  updFrame (fun f => { f with imgY := Y })
  check (Y == 0) .zeroHeight
  let X ← readU16
  updFrame (fun f => { f with imgX := X })
  check (X == 0) .zeroWidth
  let c ← readU8
  check (!(c == 1 || c == 3 || c == 4)) .badComponentCount
  updFrame (fun f => { f with imgN := c.truncate 3 })
  check (Lf.toNat != 8 + 3 * c.toNat) .badSofLength

/-- The letters 'R', 'G', 'B' of R232. -/
def rgbLetter (i : Fin 4) : Byte := if i = 0 then 0x52 else if i = 1 then 0x47 else 0x42

/-- One component specification (R232). The checks look at the whole nibble or byte read (log 8). -/
def sofComponent (i : Fin 4) : Seq Unit := do
  let id ← readU8
  updComp i (fun c => { c with id := id })
  let n ← look (fun s => s.frame.imgN)
  onlyIf (n == 3 && id == rgbLetter i) (upd (fun s => s.setFlags { s.flags with rgbIds := s.flags.rgbIds + 1 }))
  let q ← readU8
  updComp i (fun c => { c with h := BitVec.ofNat 3 (q.toNat / 16) })
  check (q.toNat / 16 == 0 || decide (4 < q.toNat / 16)) .badH
  updComp i (fun c => { c with v := BitVec.ofNat 3 (q.toNat % 16) })
  check (q.toNat % 16 == 0 || decide (4 < q.toNat % 16)) .badV
  let t ← readU8
  check (decide (3 < t.toNat)) .badTq
  updComp i (fun c => { c with tq := t.truncate 2 })

/-- The live components `0 .. img_n - 1` (R40). -/
def State.live (s : State) : List (Fin 4) := (List.range s.frame.imgN.toNat).map (Fin.ofNat 4)

/-- Component specifications (R232). -/
def sofComponents : Seq Unit := do
  upd (fun s => s.setFlags { s.flags with rgbIds := 0 })
  let live ← look State.live
  forEach live sofComponent

/-- Image size check (R233), on unbounded integers. -/
def sofSizeCheck : Seq Unit := do
  let tooBig ← look (fun s => decide (s.cfg.maxAllocBytes < s.frame.imgX.toNat * s.frame.imgY.toNat * s.frame.imgN.toNat))
  check tooBig .sizeOverflow

/-- The greatest of a sampling factor over the live components (R234). -/
def State.maxFactor (s : State) (f : Comp → BitVec 3) : Nat :=
  (s.live.map (fun i => (f (s.comp.get i)).toNat)).foldl max 0

/-- Whether some live component's factor does not divide the greatest (R234). -/
def State.nonInteger (s : State) : Bool :=
  s.live.any (fun i =>
    decide (s.frame.hMax.toNat % (s.comp.get i).h.toNat ≠ 0) || decide (s.frame.vMax.toNat % (s.comp.get i).v.toNat ≠ 0))

/-- Maximum sampling factors and the integer-ratio check (R234). -/
def sofSampling : Seq Unit := do
  let hm ← look (fun s => s.maxFactor Comp.h)
  let vm ← look (fun s => s.maxFactor Comp.v)
  updFrame (fun f => { f with hMax := BitVec.ofNat 3 hm, vMax := BitVec.ofNat 3 vm })
  let bad ← look State.nonInteger
  check bad .nonIntegerSampling

/-- MCU geometry (R235). -/
def Frame.geometry (f : Frame) : Frame :=
  { f with
    mcuW := BitVec.ofNat 6 (8 * f.hMax.toNat)
    mcuH := BitVec.ofNat 6 (8 * f.vMax.toNat)
    mcuX := BitVec.ofNat 17 (ceilDiv f.imgX.toNat (8 * f.hMax.toNat))
    mcuY := BitVec.ofNat 17 (ceilDiv f.imgY.toNat (8 * f.vMax.toNat)) }

/-- Component geometry (R236). -/
def Comp.geometry (f : Frame) (c : Comp) : Comp :=
  let w2 := f.mcuX.toNat * c.h.toNat * 8
  let h2 := f.mcuY.toNat * c.v.toNat * 8
  { c with
    x := BitVec.ofNat 17 (ceilDiv (f.imgX.toNat * c.h.toNat) f.hMax.toNat)
    y := BitVec.ofNat 17 (ceilDiv (f.imgY.toNat * c.v.toNat) f.vMax.toNat)
    w2 := BitVec.ofNat 20 w2
    h2 := BitVec.ofNat 20 h2
    coeffW := if f.progressive then BitVec.ofNat 17 (w2 / 8) else 0
    coeffH := if f.progressive then BitVec.ofNat 17 (h2 / 8) else 0 }

/-- MCU and component geometry (R235, R236). -/
def sofGeometry : Seq Unit := do
  updFrame Frame.geometry
  let live ← look State.live
  forEach live (fun i => upd (fun s => s.setComp i ((s.comp.get i).geometry s.frame)))

/-- The bytes a component's planes need (R83, R237). -/
def State.planeNeed (s : State) (i : Fin 4) : Nat :=
  let c := s.comp.get i
  c.w2.toNat * c.h2.toNat + (if s.frame.progressive then 2 * c.w2.toNat * c.h2.toNat else 0)

/-- The components' needs against `MAX_ALLOC_BYTES`, and their sum (R237). -/
def sofNeeds : List (Fin 4) → Nat → Seq Nat
  | [], total => pure total
  | i :: rest, total => do
    let need ← look (fun s => s.planeNeed i)
    let tooBig ← look (fun s => decide (s.cfg.maxAllocBytes < need))
    check tooBig .sizeOverflow
    sofNeeds rest (total + need)

/-- Allocation (R76): the planes of the live components, every element unwritten. -/
def State.allocate (s : State) : State :=
  { s with comp := s.comp.map (fun c => { c with plane := [], coef := [] }), planesAllocated := true }

/-- Allocation check and allocation (R237). -/
def sofAllocate : Seq Unit := do
  let live ← look State.live
  let total ← sofNeeds live 0
  let tooBig ← look (fun s => decide (s.cfg.planeMemBytes < total))
  check tooBig .allocFailed
  upd State.allocate

/-- Frame completion (R238): `out_n`, the GEOM event, `geom_valid`, phase FRAME. -/
def State.completeFrame (s : State) : State :=
  let outN : BitVec 3 := if s.frame.imgN = 1 then 1 else 3
  let t := (s.setFrame { s.frame with outN := outN }).deliver (.geom s.frame.imgX s.frame.imgY outN 8)
  { t with ctl := { t.ctl with geomValid := true }, phase := .frame }

/-- `FrameHeader(m)` (R230): `progressive` is whether the marker is SOF2. -/
def frameHeader (progressive : Bool) : Seq Unit := do
  updFrame (fun f => { f with progressive := progressive })
  sofFields
  sofComponents
  sofSizeCheck
  sofSampling
  sofGeometry
  sofAllocate
  upd State.completeFrame

/-! ### Scan header -/

/-- Write the scan registers. -/
def updScan (f : Scan → Scan) : Seq Unit := upd (fun s => s.setScan (f s.scan))

/-- SOS header, count and length (R241); the checks look at the whole byte read (log 8). -/
def sosCount : Seq Nat := do
  let Ls ← readU16
  let n ← readU8
  updScan (fun c => { c with scanN := n.truncate 3 })
  let imgN ← look (fun s => s.frame.imgN.toNat)
  check (decide (n.toNat < 1) || decide (4 < n.toNat) || decide (imgN < n.toNat)) .badSosComponentCount
  check (Ls.toNat != 6 + 2 * n.toNat) .badSosLength
  pure n.toNat

/-- The least live component with an id (R242). -/
def State.findComp (s : State) (id : Byte) : Option (Fin 4) := s.live.find? (fun i => (s.comp.get i).id == id)

/-- One component binding (R242) for scan position `j`; the checks look at the whole nibble read (log 8). -/
def sosBinding (j : Fin 4) : Seq Unit := do
  let cid ← readU8
  let q ← readU8
  let w ← look (fun s => s.findComp cid)
  match w with
  | none => raise .badSosComponentId
  | some w => do
    updComp w (fun c => { c with hd := BitVec.ofNat 2 (q.toNat / 16) })
    check (decide (3 < q.toNat / 16)) .badDcTableIndex
    updComp w (fun c => { c with ha := BitVec.ofNat 2 (q.toNat % 16) })
    check (decide (3 < q.toNat % 16)) .badAcTableIndex
    updScan (fun c => { c with order := c.order.set j.val (BitVec.ofNat 2 w.val) j.isLt })

/-- Whether the parameters of a progressive scan are out of their bounds (R243). -/
def Scan.badProgressive (c : Scan) : Bool :=
  decide (63 < c.specStart.toNat) || decide (63 < c.specEnd.toNat) || decide (c.specEnd.toNat < c.specStart.toNat)
    || decide (13 < c.succHigh.toNat) || decide (13 < c.succLow.toNat)

/-- SOS checks for a sequential frame (R244). -/
def sosSequential : Seq Unit := do
  let c ← look (fun s => s.scan)
  check (c.specStart != 0) .badSos
  check (c.succHigh != 0 || c.succLow != 0) .badSos
  let strict ← look (fun s => s.cfg.strictBaselineSpecEnd)
  check (strict && c.specEnd != 63) .badSos
  updScan (fun c => { c with specEnd := 63 })

/-- SOS spectral and approximation parameters (R243). -/
def sosParameters : Seq Unit := do
  let ss ← readU8
  updScan (fun c => { c with specStart := ss })
  let se ← readU8
  updScan (fun c => { c with specEnd := se })
  let a ← readU8
  updScan (fun c => { c with succHigh := a.extractLsb' 4 4, succLow := a.extractLsb' 0 4 })
  let progressive ← look (fun s => s.frame.progressive)
  if progressive then do
    let bad ← look (fun s => s.scan.badProgressive)
    check bad .badSos
  else sosSequential

/-- Whether a component of the scan lacks a Huffman table the scan needs (R245). -/
def State.lacksHuffman (s : State) (c : Comp) : Bool :=
  let dc := (s.huffAt 0 (idx2 c.hd)).loaded
  let ac := (s.huffAt 1 (idx2 c.ha)).loaded
  if s.frame.progressive then
    (s.scan.specStart == 0 && s.scan.succHigh == 0 && !dc) || (s.scan.specStart != 0 && !ac)
  else !dc || !ac

/-- SOS table presence check of scan position `j` (R245). -/
def sosTables (j : Fin 4) : Seq Unit := do
  let c ← look (fun s => s.comp.get (idx2 (s.scan.order.get j)))
  let lacks ← look (fun s => s.lacksHuffman c)
  check lacks .missingHuffmanTable
  let noQt ← look (fun s => !s.frame.progressive && !s.qtLoaded.get (idx2 c.tq))
  check noQt .missingQuantTable

/-- Scan start (R246, R271): phase SCAN, Reset, the loop position at the first MCU. -/
def State.startScan (s : State) : State :=
  let t := s.resetEntropy
  { t with phase := .scan, pos := { t.pos with mcuI := 0, mcuJ := 0, sk := 0, bcol := 0, brow := 0 } }

/-- The scan positions `0 .. n - 1`. -/
def scanPositions (n : Nat) : List (Fin 4) := (List.range n).map (Fin.ofNat 4)

/-- `StartOfScan()` (R241 to R246). -/
def startOfScan : Seq Unit := do
  let n ← sosCount
  forEach (scanPositions n) sosBinding
  sosParameters
  forEach (scanPositions n) sosTables
  upd State.startScan

/-- `EndOfImage()` (R250). -/
def State.endOfImage (s : State) : State := s.setPhase (if s.frame.progressive then .finish else .output)

end Sys2Proof.Machine
end

