-- ==== Sys2Proof/Machine/Markers.lean ====
section
/-! DEFINITION. The meanings of the markers (spec/30_encoding.md R101; spec/42_marker_parser.md R213 to R250;
spec/44_restart_fsm.md R313). The marker's code has been read (GetMarker, or the bit machine inside entropy-coded data); what a
marker does depends on the phase it is met in. -/

namespace Sys2Proof.Machine

/-- A marker by phase: in SOI only SOI itself is taken (R213); in HEADER and FRAME the rule given; in SCAN any marker but RST
ends the entropy-coded segment and is latched (R180, R447); in the other phases no marker is read, and a marker handed to the
units there has no effect (R210, R251, R451; log 15). -/
def atMarker (code : Byte) (header frame : Seq Unit) : Seq Unit := do
  let p ← look State.phase
  match p with
  | .soi => raise .noSoi
  | .header => header
  | .frame => frame
  | .scan => latchMarker code
  | .idle => pure ()
  | .finish => pure ()
  | .output => pure ()
  | .done => pure ()
  | .error => pure ()

/-- A marker ProcessMarker dispatches in HEADER: its rule, then `hdr_pad <- 1` (R214). -/
def inHeader (m : Seq Unit) : Seq Unit := do
  m
  upd (fun s => s.setCtl { s.ctl with hdrPad := true })

/-- A marker with one rule in both marker phases (R214, R215, R240). -/
def segmentMarker (code : Byte) (m : Seq Unit) : Seq Unit := atMarker code (inHeader m) m

/-- A marker of phase FRAME only; in HEADER it is UnexpectedMarker (R224, R240). -/
def frameMarker (code : Byte) (m : Seq Unit) : Seq Unit := atMarker code (raise .unexpectedMarker) m

/-- A frame header marker: HEADER only; in FRAME it is a second frame header, UnexpectedMarker (R214, R224). -/
def sofMarker (code : Byte) (progressive : Bool) : Seq Unit :=
  atMarker code (frameHeader progressive) (raise .unexpectedMarker)

/-- A marker of a process the block does not support: its segment is not read (R223). -/
def refusedMarker (code : Byte) : Seq Unit := segmentMarker code (raise .unsupportedProcess)

/-- SOI by phase: it ends phase SOI (R213); a second one is UnexpectedMarker (R224). -/
def soiMarker : Seq Unit := do
  let p ← look State.phase
  if p = .soi then upd (State.setPhase .header)
  else segmentMarker 0xD8 (raise .unexpectedMarker)

/-- The code of RSTm (R101). -/
def rstCode (m : BitVec 3) : Byte := 0xD0 ||| m.zeroExtend 8

/-- RSTm inside a scan: after the last MCU it is the one trailing RST that is discarded (R247); when the restart is due it
resynchronises the scan, whatever its index (R313); else it ends the entropy-coded data as every marker does, and is latched
(R180; log 16). -/
def rstInScan (m : BitVec 3) : Seq Unit := do
  let ended ← look State.scanDone
  let due ← look (fun s => decide (s.todo.toInt ≤ 0))
  if ended then upd (fun s => s.setBits { s.bits with marker := 0xFF })
  else if due then upd State.resetEntropy
  else latchMarker (rstCode m)

/-- RSTm by phase. -/
def rstMarker (m : BitVec 3) : Seq Unit := do
  let p ← look State.phase
  if p = .scan then rstInScan m
  else segmentMarker (rstCode m) (raise .unexpectedMarker)

/-- FF 00 by phase: inside entropy-coded data the data byte 0xFF (R112, R180; log 17), else the unknown marker 0x00 (R225). -/
def stuffMarker : Seq Unit := do
  let p ← look State.phase
  if p = .scan then do
    let full ← look (fun s => decide (24 < s.bits.count))
    if full then modelFault .fillPrecondition else appendByte 0xFF
  else segmentMarker 0x00 (raise .unknownMarker)

/-! ### Meanings -/

/-- SOI (R213, R224). -/
def execSoi (s : State) : Host.Outcome State Fault Refusal := runOp soiMarker s

/-- EOI (R250). -/
def execEoi (s : State) : Host.Outcome State Fault Refusal := runOp (frameMarker 0xD9 (upd State.endOfImage)) s

/-- RSTm (R247, R313, R224). -/
def execRst (m : BitVec 3) (s : State) : Host.Outcome State Fault Refusal := runOp (rstMarker m) s

/-- SOF0 (R230). -/
def execSof0 (s : State) : Host.Outcome State Fault Refusal := runOp (sofMarker 0xC0 false) s

/-- SOF1, decoded as SOF0 is (R230). -/
def execSof1 (s : State) : Host.Outcome State Fault Refusal := runOp (sofMarker 0xC1 false) s

/-- SOF2 (R230). -/
def execSof2 (s : State) : Host.Outcome State Fault Refusal := runOp (sofMarker 0xC2 true) s

/-- DHT (R218). -/
def execDht (s : State) : Host.Outcome State Fault Refusal := runOp (segmentMarker 0xC4 segDht) s

/-- DQT (R217). -/
def execDqt (s : State) : Host.Outcome State Fault Refusal := runOp (segmentMarker 0xDB segDqt) s

/-- SOS (R241 to R246). -/
def execSos (s : State) : Host.Outcome State Fault Refusal := runOp (frameMarker 0xDA startOfScan) s

/-- DRI (R219). -/
def execDri (s : State) : Host.Outcome State Fault Refusal := runOp (segmentMarker 0xDD segDri) s

/-- DNL (R249). -/
def execDnl (s : State) : Host.Outcome State Fault Refusal := runOp (frameMarker 0xDC segDnl) s

/-- APP0 (R220, R221). -/
def execApp0 (s : State) : Host.Outcome State Fault Refusal := runOp (segmentMarker 0xE0 (segApp recogniseJfif)) s

/-- APP14 (R220, R222). -/
def execApp14 (s : State) : Host.Outcome State Fault Refusal := runOp (segmentMarker 0xEE (segApp recogniseAdobe)) s

/-- The other APPn (R220). -/
def execAppn (n : BitVec 4) (s : State) : Host.Outcome State Fault Refusal :=
  runOp (segmentMarker (0xE0 ||| n.zeroExtend 8) (segApp recogniseNone)) s

/-- COM (R220). -/
def execCom (s : State) : Host.Outcome State Fault Refusal := runOp (segmentMarker 0xFE (segApp recogniseNone)) s

/-- SOF3 (R223). -/
def execSof3 (s : State) : Host.Outcome State Fault Refusal := runOp (refusedMarker 0xC3) s

/-- SOF5 (R223). -/
def execSof5 (s : State) : Host.Outcome State Fault Refusal := runOp (refusedMarker 0xC5) s

/-- SOF6 (R223). -/
def execSof6 (s : State) : Host.Outcome State Fault Refusal := runOp (refusedMarker 0xC6) s

/-- SOF7 (R223). -/
def execSof7 (s : State) : Host.Outcome State Fault Refusal := runOp (refusedMarker 0xC7) s

/-- SOF9 (R223). -/
def execSof9 (s : State) : Host.Outcome State Fault Refusal := runOp (refusedMarker 0xC9) s

/-- SOF10 (R223). -/
def execSof10 (s : State) : Host.Outcome State Fault Refusal := runOp (refusedMarker 0xCA) s

/-- SOF11 (R223). -/
def execSof11 (s : State) : Host.Outcome State Fault Refusal := runOp (refusedMarker 0xCB) s

/-- DAC (R223). -/
def execDac (s : State) : Host.Outcome State Fault Refusal := runOp (refusedMarker 0xCC) s

/-- SOF13 (R223). -/
def execSof13 (s : State) : Host.Outcome State Fault Refusal := runOp (refusedMarker 0xCD) s

/-- SOF14 (R223). -/
def execSof14 (s : State) : Host.Outcome State Fault Refusal := runOp (refusedMarker 0xCE) s

/-- SOF15 (R223). -/
def execSof15 (s : State) : Host.Outcome State Fault Refusal := runOp (refusedMarker 0xCF) s

/-- DHP (R223). -/
def execDhp (s : State) : Host.Outcome State Fault Refusal := runOp (refusedMarker 0xDE) s

/-- EXP (R223). -/
def execExp (s : State) : Host.Outcome State Fault Refusal := runOp (refusedMarker 0xDF) s

/-- STUFF (R225, R112). -/
def execStuff (s : State) : Host.Outcome State Fault Refusal := runOp stuffMarker s

/-- RES (R225). -/
def execRes (code : Byte) (s : State) : Host.Outcome State Fault Refusal :=
  runOp (segmentMarker code (raise .unknownMarker)) s

end Sys2Proof.Machine
end

