-- ==== Sys2Proof/Machine/Resample.lean ====
section
/-! DEFINITION. The chroma resampler (spec/46_resampler.md): set-up, row selection, the five kernels, and their meanings. -/

namespace Sys2Proof.Machine

/-- A sample of an operand row. -/
def smp (row : List Byte) (i : Nat) : Nat := (row.getD i 0).toNat

/-- RS_1x1 (R353). -/
def kernel1x1 (near : List Byte) : List Byte := near

/-- RS_V2 (R354). -/
def kernelV2 (near far : List Byte) : List Byte :=
  (List.range near.length).map (fun i => BitVec.ofNat 8 ((3 * smp near i + smp far i + 2) >>> 2))

/-- The samples `out[2i]` and `out[2i + 1]` of RS_H2 for a row of `w` samples, `w` at least 2 (R355). -/
def pairH2 (near : List Byte) (w i : Nat) : List Byte :=
  if i = 0 then [near.getD 0 0, BitVec.ofNat 8 ((3 * smp near 0 + smp near 1 + 2) >>> 2)]
  else if i + 1 = w then [BitVec.ofNat 8 ((3 * smp near (w - 2) + smp near (w - 1) + 2) >>> 2), near.getD (w - 1) 0]
  else
    let n := 3 * smp near i + 2
    [BitVec.ofNat 8 ((n + smp near (i - 1)) >>> 2), BitVec.ofNat 8 ((n + smp near (i + 1)) >>> 2)]

/-- RS_H2 (R355). -/
def kernelH2 (near : List Byte) : List Byte :=
  if near.length = 1 then [near.getD 0 0, near.getD 0 0]
  else (List.range near.length).flatMap (pairH2 near near.length)

/-- `3 * in_near[i] + in_far[i]` (R356). -/
def blendHV (near far : List Byte) (i : Nat) : Nat := 3 * smp near i + smp far i

/-- The samples `out[2i]` and `out[2i + 1]` of RS_HV2 for a row of `w` samples (R356): the first and the last sample of the
output blend vertically only. -/
def pairHV2 (near far : List Byte) (w i : Nat) : List Byte :=
  let t := blendHV near far
  [BitVec.ofNat 8 (if i = 0 then (t 0 + 2) >>> 2 else (3 * t i + t (i - 1) + 8) >>> 4),
   BitVec.ofNat 8 (if i + 1 = w then (t i + 2) >>> 2 else (3 * t i + t (i + 1) + 8) >>> 4)]

/-- RS_HV2 (R356). -/
def kernelHV2 (near far : List Byte) : List Byte :=
  (List.range near.length).flatMap (pairHV2 near far near.length)

/-- RS_GENERIC (R357). -/
def kernelGeneric (hs : Nat) (near : List Byte) : List Byte := near.flatMap (fun a => List.replicate hs a)

/-- The kernel of a selector (R351, R352). -/
def kernel (sel : Byte) (near far : List Byte) (hs : Nat) : List Byte :=
  if sel = 0x30 then kernel1x1 near
  else if sel = 0x31 then kernelV2 near far
  else if sel = 0x32 then kernelH2 near
  else if sel = 0x33 then kernelHV2 near far
  else kernelGeneric hs near

/-- Kernel selection (R351). -/
def kernelFor (hs vs : Nat) : Byte :=
  if hs = 1 ∧ vs = 1 then 0x30
  else if hs = 1 ∧ vs = 2 then 0x31
  else if hs = 2 ∧ vs = 1 then 0x32
  else if hs = 2 ∧ vs = 2 then 0x33
  else 0x34

/-- The record of component `k` at the start of phase OUTPUT (R350). -/
def State.resamplerFor (s : State) (k : Fin 4) : Resampler :=
  let hs := s.frame.hMax.toNat / (s.comp.get k).h.toNat
  let vs := s.frame.vMax.toNat / (s.comp.get k).v.toNat
  { hs := BitVec.ofNat 3 hs
    vs := BitVec.ofNat 3 vs
    wLores := BitVec.ofNat 16 (ceilDiv s.frame.imgX.toNat hs)
    ystep := BitVec.ofNat 3 (vs >>> 1)
    ypos := 0
    line0 := 0
    line1 := 0
    kern := kernelFor hs vs
    lineBuf := (s.rs.get k).lineBuf }

/-- Resampler set-up (R350). -/
def setupResampler (k : Fin 4) : Seq Unit := upd (fun s => s.setRs k (s.resamplerFor k))

/-- Whether the output row lies nearer `line1` (R352). -/
def Resampler.bottom (r : Resampler) : Bool := decide (r.vs.toNat >>> 1 ≤ r.ystep.toNat)

/-- The plane row nearest the output row (R352). -/
def Resampler.near (r : Resampler) : Nat := if r.bottom then r.line1.toNat else r.line0.toNat

/-- The neighbour on the other side (R352). -/
def Resampler.far (r : Resampler) : Nat := if r.bottom then r.line0.toNat else r.line1.toNat

/-- Whether a kernel reads `in_far` (R352: RS_V2 and RS_HV2 only). -/
def usesFar (sel : Byte) : Bool := sel == 0x31 || sel == 0x33

/-- The samples of columns `x`, `x + 1`, ... of a plane row, as many as the count says (R352). -/
def readRow (c : Fin 4) (y : Nat) : Nat → Nat → Seq (List Byte)
  | _, 0 => pure []
  | x, n + 1 => do
    let v ← planeRead c y x
    let rest ← readRow c y (x + 1) n
    pure (v :: rest)

/-- The record after an output row (R352). -/
def Resampler.next (r : Resampler) (compY : Nat) : Resampler :=
  if r.ystep.toNat + 1 < r.vs.toNat then { r with ystep := r.ystep + 1 }
  else
    { r with
      ystep := 0
      line0 := r.line1
      ypos := r.ypos + 1
      line1 := if r.ypos.toNat + 1 < compY then r.line1 + 1 else r.line1 }

/-- The row step of one component (R352): its output row goes to the line buffer, and the record advances. -/
def rowStep (k : Fin 4) : Seq Unit := do
  let r ← look (fun s => s.rs.get k)
  let near ← readRow k r.near 0 r.wLores.toNat
  let far ← (if usesFar r.kern then readRow k r.far 0 r.wLores.toNat else pure [])
  upd (fun s => s.setRs k { r.next (s.comp.get k).y.toNat with lineBuf := kernel r.kern near far r.hs.toNat })

/-! ### Meanings: a kernel on the operand rows of the unit port, for the unit port's component -/

/-- Put a kernel's output in the line buffer of the unit port's component. -/
def putLine (f : UnitPort → Resampler → List Byte) : Seq Unit :=
  upd (fun s =>
    let k := idx2 s.unit.comp
    s.setRs k { s.rs.get k with lineBuf := f s.unit (s.rs.get k) })

/-- RS_1x1 (R353). -/
def execRs1x1 (s : State) : Host.Outcome State Fault Refusal := runOp (putLine (fun u _ => kernel1x1 u.inNear)) s

/-- RS_V2 (R354). -/
def execRsV2 (s : State) : Host.Outcome State Fault Refusal := runOp (putLine (fun u _ => kernelV2 u.inNear u.inFar)) s

/-- RS_H2 (R355). -/
def execRsH2 (s : State) : Host.Outcome State Fault Refusal := runOp (putLine (fun u _ => kernelH2 u.inNear)) s

/-- RS_HV2 (R356). -/
def execRsHv2 (s : State) : Host.Outcome State Fault Refusal := runOp (putLine (fun u _ => kernelHV2 u.inNear u.inFar)) s

/-- RS_GENERIC (R357). -/
def execRsGeneric (s : State) : Host.Outcome State Fault Refusal :=
  runOp (putLine (fun u r => kernelGeneric r.hs.toNat u.inNear)) s

end Sys2Proof.Machine
end

