-- ==== Sys2Proof/Machine/Idct.lean ====
section
/-! DEFINITION. The fixed-point separable inverse DCT (spec/45_idct.md), its placement in a plane, and the meaning of IDCT.
All arithmetic is on 32-bit words, which wrap as `wrap32` does, with arithmetic right shifts. -/

namespace Sys2Proof.Machine

/-- The eight results of the one-dimensional kernel (R332). -/
structure Idct8 where
  x0 : BitVec 32
  x1 : BitVec 32
  x2 : BitVec 32
  x3 : BitVec 32
  t0 : BitVec 32
  t1 : BitVec 32
  t2 : BitVec 32
  t3 : BitVec 32
  deriving DecidableEq, Repr

/-- A constant of R330 as a 32-bit word. -/
def kst (v : Int) : BitVec 32 := BitVec.ofInt 32 v

/-- The even part of IDCT1D, `x0` to `x3` (R331), from `s0`, `s2`, `s4`, `s6`. -/
def idctEven (s0 s2 s4 s6 : BitVec 32) : BitVec 32 × BitVec 32 × BitVec 32 × BitVec 32 :=
  let p1 := (s2 + s6) * kst 2217
  let t2 := p1 + s6 * kst (-7567)
  let t3 := p1 + s2 * kst 3135
  let t0 := (s0 + s4) * kst 4096
  let t1 := (s0 - s4) * kst 4096
  (t0 + t3, t1 + t2, t1 - t2, t0 - t3)

/-- The odd part of IDCT1D, `t0` to `t3` (R332), from `s1`, `s3`, `s5`, `s7`. -/
def idctOdd (s1 s3 s5 s7 : BitVec 32) : BitVec 32 × BitVec 32 × BitVec 32 × BitVec 32 :=
  let p3 := s7 + s3
  let p4 := s5 + s1
  let p1 := s7 + s1
  let p2 := s5 + s3
  let p5 := (p3 + p4) * kst 4816
  let q1 := p5 + p1 * kst (-3685)
  let q2 := p5 + p2 * kst (-10497)
  let q3 := p3 * kst (-8034)
  let q4 := p4 * kst (-1597)
  (s7 * kst 1223 + q1 + q3, s5 * kst 8410 + q2 + q4, s3 * kst 12586 + q2 + q3, s1 * kst 6149 + q1 + q4)

/-- IDCT1D (R331, R332). -/
def idct1d (s0 s1 s2 s3 s4 s5 s6 s7 : BitVec 32) : Idct8 :=
  match idctEven s0 s2 s4 s6, idctOdd s1 s3 s5 s7 with
  | (x0, x1, x2, x3), (t0, t1, t2, t3) =>
    { x0 := x0, x1 := x1, x2 := x2, x3 := x3, t0 := t0, t1 := t1, t2 := t2, t3 := t3 }

/-- The output step of a pass with bias `B` and shift `S` (R334), position by position. -/
def passOut (B : BitVec 32) (S : Nat) (q : Idct8) (r : Nat) : BitVec 32 :=
  match r with
  | 0 => (q.x0 + B + q.t3).sshiftRight S
  | 1 => (q.x1 + B + q.t2).sshiftRight S
  | 2 => (q.x2 + B + q.t1).sshiftRight S
  | 3 => (q.x3 + B + q.t0).sshiftRight S
  | 4 => (q.x3 + B - q.t0).sshiftRight S
  | 5 => (q.x2 + B - q.t1).sshiftRight S
  | 6 => (q.x1 + B - q.t2).sshiftRight S
  | _ => (q.x0 + B - q.t3).sshiftRight S

/-- `d[8*r + c]` of a block as a 32-bit word (R333). -/
def blockAt (d : Vector (BitVec 16) 64) (r c : Nat) : BitVec 32 := (at? d (8 * r + c) 0).signExtend 32

/-- Whether rows 1 to 7 of a column are zero (R333). -/
def columnFlat (d : Vector (BitVec 16) 64) (i : Nat) : Bool :=
  [1, 2, 3, 4, 5, 6, 7].all (fun r => at? d (8 * r + i) 0 == 0)

/-- The kernel of column `i` (R333). -/
def columnKernel (d : Vector (BitVec 16) 64) (i : Nat) : Idct8 :=
  idct1d (blockAt d 0 i) (blockAt d 1 i) (blockAt d 2 i) (blockAt d 3 i) (blockAt d 4 i) (blockAt d 5 i) (blockAt d 6 i)
    (blockAt d 7 i)

/-- The column pass: `v[8*r + i]` (R333), with the DC-only shortcut. -/
def columnPass (d : Vector (BitVec 16) 64) (r i : Nat) : BitVec 32 :=
  if columnFlat d i then blockAt d 0 i * kst 4 else passOut (kst 512) 10 (columnKernel d i) r

/-- The intermediate of the column pass (R333). -/
def columns (d : Vector (BitVec 16) 64) : Vector (BitVec 32) 64 :=
  Vector.ofFn (fun i : Fin 64 => columnPass d (i.val / 8) (i.val % 8))

/-- The kernel of row `r` (R335). -/
def rowKernel (v : Vector (BitVec 32) 64) (r : Nat) : Idct8 :=
  let e := fun c : Nat => at? v (8 * r + c) 0
  idct1d (e 0) (e 1) (e 2) (e 3) (e 4) (e 5) (e 6) (e 7)

/-- The row pass: `px[8*r + c]` (R335). -/
def rowPass (v : Vector (BitVec 32) 64) (r c : Nat) : Byte := clamp255 (passOut (kst 16842752) 17 (rowKernel v r) c).toInt

/-- The inverse DCT of a block (R336). -/
def idctBlock (d : Vector (BitVec 16) 64) : Vector Byte 64 :=
  Vector.ofFn (fun i : Fin 64 => rowPass (columns d) (i.val / 8) (i.val % 8))

/-- IDCT (R336): the block buffer's transform. -/
def idct : Seq Unit := upd (fun s => s.setBlk { s.blk with px := idctBlock s.blk.data })

/-- Placement (R337): the transform of block `(c, gx, gy)` into the component's plane. -/
def placeBlock (c : Fin 4) (gx gy : Nat) : Seq Unit := do
  let px ← look (fun s => s.blk.px)
  forEach (List.range 64) (fun i => planeWrite c (8 * gy + i / 8) (8 * gx + i % 8) (at? px i 0))

/-! ### Meaning -/

/-- IDCT (R336): the transform of the block buffer goes to `px`; the sequencer places it (R284, R286). -/
def execIdct (s : State) : Host.Outcome State Fault Refusal := runOp idct s

end Sys2Proof.Machine
end

