-- ==== Sys2Proof/Machine/Block.lean ====
section
/-! DEFINITION. The block decoder (spec/43_block_decoder.md R274 to R286): its symbols, the five block operations, and the
progressive finish; the meanings of the entropy symbols are in Symbols.lean. -/

namespace Sys2Proof.Machine

/-! ### Registers of the block operations -/

/-- Write the zig-zag position `k`. -/
def setK (f : Nat → Nat) : Seq Unit := upd (fun s => s.setBlk { s.blk with k := f s.blk.k })

/-- `exit loop`. -/
def endBlock : Seq Unit := upd (fun s => s.setBlk { s.blk with done := true })

/-- `data[z] <- v`. -/
def putData (z : Fin 64) (v : BitVec 16) : Seq Unit :=
  upd (fun s => s.setBlk { s.blk with data := s.blk.data.set z.val v z.isLt })

/-- `k <- k + r; z <- DEZIGZAG[k]; k <- k + 1` (R274, R278): the natural index `z`. -/
def advanceRun (r : Nat) : Seq (Fin 64) := do
  setK (fun k => k + r)
  let z ← look (fun s => dezigzag s.blk.k)
  setK (fun k => k + 1)
  pure z

/-! ### DC symbols -/

/-- DecodeDcDiff after its symbol (R275): `diff` for category `t`, added to the predictor. -/
def dcPredict (t : Nat) : Seq Unit := do
  let diff ← (if t = 0 then pure 0 else receiveExtend t)
  upd (fun s =>
    let c := s.comp.get s.blockComp
    s.setComp s.blockComp { c with dcPred := wrap32 (c.dcPred.toInt + diff) })

/-- The DC symbol of a baseline block (R274): the predictor, a block of zeros, and the dequantised DC coefficient. -/
def dcBaseline (t : Nat) : Seq Unit := do
  dcPredict t
  let q ← look (fun s => s.qTable)
  let Q ← loadedQt q
  upd (fun s => s.setBlk { s.blk with data := Vector.replicate 64 0, k := 1, done := false })
  let p ← look (fun s => (s.comp.get s.blockComp).dcPred.toInt)
  putData 0 (trunc16 (p * (at? Q 0 0).toNat))

/-- The DC symbol of a progressive first scan (R276): the predictor, and the shifted DC coefficient. -/
def dcFirstSymbol (t : Nat) : Seq Unit := do
  dcPredict t
  let s ← get
  coefWrite s.blockComp s.blockNum 0 (trunc16 ((s.comp.get s.blockComp).dcPred.toInt * s.lowBit))

/-- Decode the DC symbol (R275): a category above 15 is BadHuffmanCode. -/
def dcCategory : Seq Nat := do
  let th ← look State.dcTable
  let t ← decodeHuffman 0 th
  check (decide (15 < t.toNat)) .badHuffmanCode
  pure t.toNat

/-- The DC refinement bit (R277): the coefficient is read first; a 1 adds `2^succ_low`. -/
def dcRefineWith (readBit : Seq Bool) : Seq Unit := do
  let s ← get
  let p ← coefRead s.blockComp s.blockNum 0
  let b ← readBit
  onlyIf b (coefWrite s.blockComp s.blockNum 0 (trunc16 (p.toInt + s.lowBit)))

/-! ### AC symbols of a sequential scan (R274) -/

/-- A coefficient of a sequential block: value times `Q[z]`. -/
def putCoef (z : Fin 64) (v : Int) : Seq Unit := do
  let q ← look (fun s => s.qTable)
  let Q ← loadedQt q
  putData z (trunc16 (v * (at? Q z.val 0).toNat))

/-- `S` not 0: skip `r` zero coefficients, then one coefficient of category `c`. -/
def acCoef (r c : Nat) : Seq Unit := do
  let z ← advanceRun r
  let v ← receiveExtend c
  putCoef z v

/-- ZRL: skip 16 zero coefficients (R274, R278). -/
def acSkip16 : Seq Unit := setK (fun k => k + 16)

/-- The slow path of a sequential AC symbol. -/
def acSymbol (rs : Byte) : Seq Unit :=
  if rs.toNat % 16 = 0 then (if rs = 0xF0 then acSkip16 else endBlock)
  else acCoef (rs.toNat / 16) (rs.toNat % 16)

/-- The fast path of R274 and R278 up to the natural index: run, length check, Consume. -/
def fastAdvance (e : BitVec 16) : Seq (Fin 64) := do
  setK (fun k => k + fastRun e)
  takeCode (fastLen e)
  advanceRun 0

/-- One round of the AC loop of R274. -/
def acRound : Seq Unit := do
  fillBelow 16
  let th ← look State.acTable
  let e ← peekFastAc th
  if e ≠ 0 then do
    let z ← fastAdvance e
    putCoef z (fastValue e)
  else do
    let rs ← decodeHuffman 1 th
    acSymbol rs

/-- The AC loop of R274: until the block ends or `k >= 64`. Each round that goes on raises `k`, so the count bounds no run. -/
def acLoop : Nat → Seq Unit
  | 0 => pure ()
  | n + 1 => do
    acRound
    let stop ← look (fun s => s.blk.done || decide (64 ≤ s.blk.k))
    if stop then pure () else acLoop n

/-- BLK_BASELINE (R274): the dequantised block goes to `data`. -/
def blkBaseline : Seq Unit := do
  fillBelow 16
  let t ← dcCategory
  dcBaseline t
  acLoop 64

/-! ### Progressive blocks (43.3) -/

/-- BLK_DC_FIRST (R276). -/
def blkDcFirst : Seq Unit := do
  let s ← get
  check (s.scan.specEnd != 0) .badProgressiveScan
  fillBelow 16
  forEach (List.range 64) (fun z => coefWrite s.blockComp s.blockNum z 0)
  let t ← dcCategory
  dcFirstSymbol t

/-- BLK_DC_REFINE (R277). -/
def blkDcRefine : Seq Unit := do
  let s ← get
  check (s.scan.specEnd != 0) .badProgressiveScan
  fillBelow 16
  dcRefineWith getBit

/-- Write a coefficient of the block at the scan position. -/
def putBlockCoef (z : Fin 64) (v : Int) : Seq Unit := do
  let s ← get
  coefWrite s.blockComp s.blockNum z.val (trunc16 v)

/-- Read a coefficient of the block at the scan position. -/
def blockCoef (z : Fin 64) : Seq Int := do
  let s ← get
  let v ← coefRead s.blockComp s.blockNum z.val
  pure v.toInt

/-- A coefficient of a progressive first scan (R278): the value times `2^succ_low`. -/
def acpCoef (r c : Nat) : Seq Unit := do
  let z ← advanceRun r
  let v ← receiveExtend c
  let low ← look State.lowBit
  putBlockCoef z (v * low)

/-- Write `eob_run`. -/
def setEobRun (f : BitVec 32 → BitVec 32) : Seq Unit := upd (fun s => s.setScan { s.scan with eobRun := f s.scan.eobRun })

/-- `if r != 0: eob_run <- eob_run + GetBits(r)` (R278, R281). -/
def addEobBits (r : Nat) : Seq Unit :=
  if r = 0 then pure ()
  else do
    let v ← getBits r
    setEobRun (fun e => e + BitVec.ofNat 32 v)

/-- EOBr in a first scan (R278, R279): this block is the first of the run of `2^r + bits`. -/
def acpEobrun (r : Nat) : Seq Unit := do
  setEobRun (fun _ => BitVec.ofNat 32 (2 ^ r))
  addEobBits r
  setEobRun (fun e => e - 1)
  endBlock

/-- The slow path of a symbol of a progressive first scan (R278). -/
def acpSymbol (rs : Byte) : Seq Unit :=
  if rs.toNat % 16 = 0 then (if rs = 0xF0 then acSkip16 else acpEobrun (rs.toNat / 16))
  else acpCoef (rs.toNat / 16) (rs.toNat % 16)

/-- One round of the loop of R278. -/
def acpRound : Seq Unit := do
  fillBelow 16
  let th ← look State.acTable
  let e ← peekFastAc th
  if e ≠ 0 then do
    let z ← fastAdvance e
    let low ← look State.lowBit
    putBlockCoef z (fastValue e * low)
  else do
    let rs ← decodeHuffman 1 th
    acpSymbol rs

/-- Whether `k > spec_end` (R278, R280). -/
def State.pastBand (s : State) : Bool := decide (s.scan.specEnd.toNat < s.blk.k)

/-- The loop of R278; each round that goes on raises `k`, so the count bounds no run. -/
def acpLoop : Nat → Seq Unit
  | 0 => pure ()
  | n + 1 => do
    acpRound
    let stop ← look (fun s => s.blk.done || s.pastBand)
    if stop then pure () else acpLoop n

/-- `k <- spec_start`, at the head of a block's loop. -/
def startBand : Seq Unit := upd (fun s => s.setBlk { s.blk with k := s.scan.specStart.toNat, done := false })

/-- BLK_AC_FIRST (R278). -/
def blkAcFirst : Seq Unit := do
  let run ← look (fun s => s.scan.eobRun)
  if run ≠ 0 then setEobRun (fun e => e - 1)
  else do
    startBand
    acpLoop 256

/-- `RefineBit(z)` (R283): the correction bit is always consumed. -/
def refineBit (z : Fin 64) : Seq Unit := do
  let s ← get
  let p ← coefRead s.blockComp s.blockNum z.val
  let b ← getBit
  onlyIf (b && !p.getLsbD s.scan.succLow.toNat)
    (coefWrite s.blockComp s.blockNum z.val
      (trunc16 (if 0 < p.toInt then p.toInt + s.lowBit else p.toInt - s.lowBit)))

/-- `Advance()` (R282) with run `r` and value `v`; each round raises `k`, so the count bounds no run. -/
def advance (v : Int) : Nat → Nat → Seq Unit
  | 0, _ => pure ()
  | n + 1, r => do
    let past ← look State.pastBand
    if past then pure ()
    else do
      let z ← advanceRun 0
      let p ← blockCoef z
      if p ≠ 0 then do
        refineBit z
        advance v n r
      else if r = 0 then putBlockCoef z v
      else advance v n (r - 1)

/-- A new coefficient of a refinement scan (R281): its sign bit, then Advance. -/
def acrCoef (r : Nat) : Seq Unit := do
  let positive ← getBit
  let low ← look State.lowBit
  advance (if positive then (low : Int) else -(low : Int)) 256 r

/-- ZRL of a refinement scan (R281, R282): 16 zero coefficients are passed. -/
def acrZrl : Seq Unit := advance 0 256 15

/-- EOBr of a refinement scan (R281): `eob_run`, and no new coefficient in this block. -/
def acrEobrun (r : Nat) : Seq Unit := do
  setEobRun (fun _ => BitVec.ofNat 32 (2 ^ r - 1))
  addEobBits r
  advance 0 256 64

/-- A symbol of a refinement scan (R281) and the Advance after it (R282). -/
def acrSymbol (rs : Byte) : Seq Unit :=
  if rs.toNat % 16 = 0 then (if rs = 0xF0 then acrZrl else acrEobrun (rs.toNat / 16))
  else if rs.toNat % 16 = 1 then acrCoef (rs.toNat / 16)
  else raise .badHuffmanCode

/-- One round of the loop of R280. -/
def acrRound : Seq Unit := do
  let th ← look State.acTable
  let rs ← decodeHuffman 1 th
  acrSymbol rs

/-- `repeat ... until k > spec_end` (R280); each round raises `k` or ends the band, so the count bounds no run. -/
def acrLoop : Nat → Seq Unit
  | 0 => pure ()
  | n + 1 => do
    acrRound
    let stop ← look State.pastBand
    if stop then pure () else acrLoop n

/-- The correction bits of a block inside an EOB run (R280), for the zig-zag positions of a list. -/
def refineBand : List Nat → Seq Unit
  | [] => pure ()
  | k :: ks => do
    let p ← blockCoef (dezigzag k)
    onlyIf (p != 0) (refineBit (dezigzag k))
    refineBand ks

/-- The zig-zag positions of the band (R280). -/
def State.band (s : State) : List Nat :=
  (List.range (s.scan.specEnd.toNat + 1 - s.scan.specStart.toNat)).map (fun i => s.scan.specStart.toNat + i)

/-- BLK_AC_REFINE (R280). -/
def blkAcRefine : Seq Unit := do
  let run ← look (fun s => s.scan.eobRun)
  if run ≠ 0 then do
    setEobRun (fun e => e - 1)
    let ks ← look State.band
    refineBand ks
  else do
    startBand
    acrLoop 256

/-! ### Finish (43.4) -/

/-- The dequantised block `(fk, b)` (R286), coefficient by coefficient. -/
def dequantBlock (c : Fin 4) (b : Nat) (Q : Vector (BitVec 16) 64) : Seq Unit :=
  forEach (List.range 64) (fun z => do
    let v ← coefRead c b z
    upd (fun s => s.setBlk { s.blk with data := put s.blk.data z (trunc16 (v.toInt * (at? Q z 0).toNat)) }))

/-- The finish's next position (R286): the block columns, then the block rows, then the components; after the last component
the phase becomes OUTPUT. -/
def State.nextFinish (s : State) : State :=
  let c := s.comp.get (idx2 s.pos.fk)
  let fi := s.pos.fi.toNat + 1
  let fj := if fi = c.gridW then s.pos.fj.toNat + 1 else s.pos.fj.toNat
  let fk := if fj = c.gridH then s.pos.fk.toNat + 1 else s.pos.fk.toNat
  { s with
    pos := { s.pos with
      fi := BitVec.ofNat 17 (if fi = c.gridW then 0 else fi)
      fj := BitVec.ofNat 17 (if fj = c.gridH then 0 else fj)
      fk := BitVec.ofNat 2 fk }
    phase := if fk = s.frame.imgN.toNat then .output else s.phase }

/-- DEQUANT_IDCT (R286): one block of the finish. -/
def dequantIdct : Seq Unit := do
  let s ← get
  let k := idx2 s.pos.fk
  let c := s.comp.get k
  check (decide (s.pos.fi = 0) && decide (s.pos.fj = 0) && !s.qtLoaded.get (idx2 c.tq)) .missingQuantTable
  let Q ← loadedQt (idx2 c.tq)
  dequantBlock k (s.pos.fi.toNat + s.pos.fj.toNat * c.coeffW.toNat) Q
  idct
  placeBlock k s.pos.fi.toNat s.pos.fj.toNat
  upd State.nextFinish

/-! ### Meanings -/

/-- BLK_BASELINE (R274) on the block at the scan position. -/
def execBlkBaseline (s : State) : Host.Outcome State Fault Refusal := runOp blkBaseline s

/-- BLK_DC_FIRST (R276) on the block at the scan position. -/
def execBlkDcFirst (s : State) : Host.Outcome State Fault Refusal := runOp blkDcFirst s

/-- BLK_DC_REFINE (R277) on the block at the scan position. -/
def execBlkDcRefine (s : State) : Host.Outcome State Fault Refusal := runOp blkDcRefine s

/-- BLK_AC_FIRST (R278) on the block at the scan position. -/
def execBlkAcFirst (s : State) : Host.Outcome State Fault Refusal := runOp blkAcFirst s

/-- BLK_AC_REFINE (R280) on the block at the scan position. -/
def execBlkAcRefine (s : State) : Host.Outcome State Fault Refusal := runOp blkAcRefine s

/-- DEQUANT_IDCT (R286) on the block at the finish position. -/
def execDequantIdct (s : State) : Host.Outcome State Fault Refusal := runOp dequantIdct s

end Sys2Proof.Machine
end

