-- ==== Sys2Proof/Machine/Symbols.lean ====
section
/-! DEFINITION. The meanings of the entropy symbols of the opcode table (spec/30_encoding.md R115 to R120). The word of a
Huffman symbol has been decoded (DECODE_HUFF), and the raw bits of DC_REFINE_BIT and MAG have been read; what a symbol then does
is the part of its block operation's rule after that point, on the block at the scan position and the registers of the
block operation. -/

namespace Sys2Proof.Machine

/-- DC_DIFF (R116, R275): in a sequential frame the DC of a baseline block (R274), in a progressive one that of a first scan
(R276). -/
def execDcDiff (t : BitVec 4) (s : State) : Host.Outcome State Fault Refusal :=
  runOp (if s.frame.progressive then dcFirstSymbol t.toNat else dcBaseline t.toNat) s

/-- AC_COEF (R117, R274). -/
def execAcCoef (r c : BitVec 4) (s : State) : Host.Outcome State Fault Refusal := runOp (acCoef r.toNat c.toNat) s

/-- AC_ZRL (R117, R274). -/
def execAcZrl (s : State) : Host.Outcome State Fault Refusal := runOp acSkip16 s

/-- AC_EOB (R117, R274): 0x00, 0x10, ..., 0xE0 all end the block. -/
def execAcEob (_r : BitVec 4) (s : State) : Host.Outcome State Fault Refusal := runOp endBlock s

/-- ACP_COEF (R118, R278). -/
def execAcpCoef (r c : BitVec 4) (s : State) : Host.Outcome State Fault Refusal := runOp (acpCoef r.toNat c.toNat) s

/-- ACP_ZRL (R118, R278). -/
def execAcpZrl (s : State) : Host.Outcome State Fault Refusal := runOp acSkip16 s

/-- ACP_EOBRUN (R118, R278, R279). -/
def execAcpEobrun (r : BitVec 4) (s : State) : Host.Outcome State Fault Refusal := runOp (acpEobrun r.toNat) s

/-- ACR_COEF (R119, R281, R282). -/
def execAcrCoef (r : BitVec 4) (s : State) : Host.Outcome State Fault Refusal := runOp (acrCoef r.toNat) s

/-- ACR_ZRL (R119, R281, R282). -/
def execAcrZrl (s : State) : Host.Outcome State Fault Refusal := runOp acrZrl s

/-- ACR_EOBRUN (R119, R281, R282). -/
def execAcrEobrun (r : BitVec 4) (s : State) : Host.Outcome State Fault Refusal := runOp (acrEobrun r.toNat) s

/-- ACR_BAD (R119, R281): BadHuffmanCode. -/
def execAcrBad (_r _c : BitVec 4) (s : State) : Host.Outcome State Fault Refusal := runOp (raise .badHuffmanCode) s

/-- DC_REFINE_BIT (R120, R277). -/
def execDcRefineBit (b : Bool) (s : State) : Host.Outcome State Fault Refusal := runOp (dcRefineWith (pure b)) s

/-- MAG (R115, R188): the signed value of the raw bits goes to the result register. -/
def execMag (n : BitVec 4) (v : BitVec 15) (s : State) : Host.Outcome State Fault Refusal :=
  runUnit (pure (magnitude n.toNat v.toNat)) wrap32 s

end Sys2Proof.Machine
end

