-- ==== Sys2Proof/Machine/Dispatch.lean ====
section
/-! DEFINITION. The meaning of each instruction: one arm per row of spec/opcode_table.json. -/

namespace Sys2Proof.Machine

/-- The meaning of an instruction. -/
def exec (i : Instr) (s : State) : Host.Outcome State Fault Refusal :=
  match i with
  | .soi => Sys2Proof.Machine.execSoi s
  | .eoi => Sys2Proof.Machine.execEoi s
  | .rst m => Sys2Proof.Machine.execRst m s
  | .sof0 => Sys2Proof.Machine.execSof0 s
  | .sof1 => Sys2Proof.Machine.execSof1 s
  | .sof2 => Sys2Proof.Machine.execSof2 s
  | .dht => Sys2Proof.Machine.execDht s
  | .dqt => Sys2Proof.Machine.execDqt s
  | .sos => Sys2Proof.Machine.execSos s
  | .dri => Sys2Proof.Machine.execDri s
  | .dnl => Sys2Proof.Machine.execDnl s
  | .app0 => Sys2Proof.Machine.execApp0 s
  | .app14 => Sys2Proof.Machine.execApp14 s
  | .appn n => Sys2Proof.Machine.execAppn n s
  | .com => Sys2Proof.Machine.execCom s
  | .sof3 => Sys2Proof.Machine.execSof3 s
  | .sof5 => Sys2Proof.Machine.execSof5 s
  | .sof6 => Sys2Proof.Machine.execSof6 s
  | .sof7 => Sys2Proof.Machine.execSof7 s
  | .sof9 => Sys2Proof.Machine.execSof9 s
  | .sof10 => Sys2Proof.Machine.execSof10 s
  | .sof11 => Sys2Proof.Machine.execSof11 s
  | .dac => Sys2Proof.Machine.execDac s
  | .sof13 => Sys2Proof.Machine.execSof13 s
  | .sof14 => Sys2Proof.Machine.execSof14 s
  | .sof15 => Sys2Proof.Machine.execSof15 s
  | .dhp => Sys2Proof.Machine.execDhp s
  | .exp => Sys2Proof.Machine.execExp s
  | .stuff => Sys2Proof.Machine.execStuff s
  | .res code => Sys2Proof.Machine.execRes code s
  | .dcDiff t => Sys2Proof.Machine.execDcDiff t s
  | .acCoef r c => Sys2Proof.Machine.execAcCoef r c s
  | .acZrl => Sys2Proof.Machine.execAcZrl s
  | .acEob r => Sys2Proof.Machine.execAcEob r s
  | .acpCoef r c => Sys2Proof.Machine.execAcpCoef r c s
  | .acpZrl => Sys2Proof.Machine.execAcpZrl s
  | .acpEobrun r => Sys2Proof.Machine.execAcpEobrun r s
  | .acrCoef r => Sys2Proof.Machine.execAcrCoef r s
  | .acrZrl => Sys2Proof.Machine.execAcrZrl s
  | .acrEobrun r => Sys2Proof.Machine.execAcrEobrun r s
  | .acrBad r c => Sys2Proof.Machine.execAcrBad r c s
  | .dcRefineBit b => Sys2Proof.Machine.execDcRefineBit b s
  | .mag n v => Sys2Proof.Machine.execMag n v s
  | .blkBaseline => Sys2Proof.Machine.execBlkBaseline s
  | .blkDcFirst => Sys2Proof.Machine.execBlkDcFirst s
  | .blkDcRefine => Sys2Proof.Machine.execBlkDcRefine s
  | .blkAcFirst => Sys2Proof.Machine.execBlkAcFirst s
  | .blkAcRefine => Sys2Proof.Machine.execBlkAcRefine s
  | .idct => Sys2Proof.Machine.execIdct s
  | .dequantIdct => Sys2Proof.Machine.execDequantIdct s
  | .rs1x1 => Sys2Proof.Machine.execRs1x1 s
  | .rsV2 => Sys2Proof.Machine.execRsV2 s
  | .rsH2 => Sys2Proof.Machine.execRsH2 s
  | .rsHv2 => Sys2Proof.Machine.execRsHv2 s
  | .rsGeneric => Sys2Proof.Machine.execRsGeneric s
  | .ccGray => Sys2Proof.Machine.execCcGray s
  | .ccRgb => Sys2Proof.Machine.execCcRgb s
  | .ccYcbcr => Sys2Proof.Machine.execCcYcbcr s
  | .ccCmyk => Sys2Proof.Machine.execCcCmyk s
  | .ccYcck => Sys2Proof.Machine.execCcYcck s
  | .ccYcbcrK => Sys2Proof.Machine.execCcYcbcrK s
  | .restart => Sys2Proof.Machine.execRestart s
  | .reset => Sys2Proof.Machine.execReset s
  | .hufBuild => Sys2Proof.Machine.execHufBuild s
  | .fastacBuild => Sys2Proof.Machine.execFastacBuild s
  | .fill => Sys2Proof.Machine.execFill s
  | .decodeHuff => Sys2Proof.Machine.execDecodeHuff s
  | .getBits => Sys2Proof.Machine.execGetBits s
  | .getBit => Sys2Proof.Machine.execGetBit s
  | .receiveExtend => Sys2Proof.Machine.execReceiveExtend s
  | .getMarker => Sys2Proof.Machine.execGetMarker s
  | .seekMarker => Sys2Proof.Machine.execSeekMarker s
  | .ctrlStart abort irqEn => Sys2Proof.Machine.execCtrlStart abort irqEn s
  | .ctrlAbort irqEn => Sys2Proof.Machine.execCtrlAbort irqEn s
  | .ctrlSoftReset start abort irqEn => Sys2Proof.Machine.execCtrlSoftReset start abort irqEn s
  | .ctrlIrqEn level => Sys2Proof.Machine.execCtrlIrqEn level s

end Sys2Proof.Machine
end

