-- ==== Sys2Proof/Machine/Sequencer.lean ====
section
/-! DEFINITION. The sequencer (spec/42_marker_parser.md R210 to R214, R240, R247; spec/43_block_decoder.md R270 to R273, R284;
spec/47_color_output.md R370, R380, R381): what one step does in each phase, how a host write and an issued word are taken, and
how a word is placed where the next step takes it. -/

namespace Sys2Proof.Machine

/-! ### Reading one marker (phases SOI, HEADER, FRAME) -/

/-- `while m = 0xFF: m <- GetMarker()` (R214); each round takes a byte, so the count bounds no run. -/
def skipPadding : Nat → Byte → Seq Byte
  | 0, m => pure m
  | n + 1, m =>
    if m = 0xFF then do
      let m' ← getMarker
      skipPadding n m'
    else pure m

/-- The marker a step of SOI, HEADER or FRAME dispatches (R213, R214, R240): one GetMarker, and in HEADER after its first
dispatched marker the padding before the next one is skipped. -/
def fetchMarker : Seq Byte := do
  let m ← getMarker
  let pad ← look (fun s => s.phase == .header && s.ctl.hdrPad)
  if pad then do
    let n ← supplied
    skipPadding (n + 1) m
  else pure m

/-- Dispatch of a marker code (R215): its instruction; where GetMarker returned NONE, NoSoi in SOI (R213) and else
ExpectedMarker (R216). -/
def dispatchMarker (m : Byte) (s : State) : Host.Outcome State Fault Refusal :=
  match decodeCode m with
  | .ok i => exec i s
  | .error _ => .next (s.takeError (if s.phase = .soi then .noSoi else .expectedMarker))

/-- One step of SOI, HEADER or FRAME: read one marker and dispatch it (R210). -/
def markerStep (s : State) : Host.Outcome State Fault Refusal :=
  settle s (fetchMarker s.unheld) (fun m t => holdFrom s (dispatchMarker m t))

/-! ### One MCU (phase SCAN) -/

/-- The operation of the scan on the block at the scan position (R270); a baseline block is transformed and placed (R284). -/
def runBlock : Seq Unit := do
  let op ← look State.blockOp
  if op = 0x10 then do
    blkBaseline
    idct
    let s ← get
    placeBlock s.blockComp s.blockCol s.blockRow
  else if op = 0x11 then blkDcFirst
  else if op = 0x12 then blkDcRefine
  else if op = 0x13 then blkAcFirst
  else blkAcRefine

/-- The positions `(sk, by, bx)` of the blocks of one interleaved MCU, in their order (R273). -/
def State.mcuBlocks (s : State) : List (Fin 4 × Nat × Nat) :=
  (scanPositions s.scan.scanN.toNat).flatMap (fun sk =>
    let c := s.comp.get (idx2 (s.scan.order.get sk))
    (List.range c.v.toNat).flatMap (fun y => (List.range c.h.toNat).map (fun x => (sk, y, x))))

/-- Write `sk`, `by` and `bx` (R273). -/
def setBlockPos (p : Fin 4 × Nat × Nat) : Seq Unit :=
  upd (fun s => s.setPos { s.pos with
    sk := BitVec.ofNat 2 p.1.val, brow := BitVec.ofNat 3 p.2.1, bcol := BitVec.ofNat 3 p.2.2 })

/-- The blocks of one MCU: one block (R272), or the interleaved group (R273). -/
def runMcu : Seq Unit := do
  let s ← get
  if s.single then runBlock
  else forEach s.mcuBlocks (fun p => do
    setBlockPos p
    runBlock)

/-- The next MCU position (R272, R273). -/
def State.nextMcu (s : State) : State :=
  if s.pos.mcuI.toNat + 1 = s.mcuCols then s.setPos { s.pos with mcuI := 0, mcuJ := s.pos.mcuJ + 1 }
  else s.setPos { s.pos with mcuI := s.pos.mcuI + 1 }

/-- The end of R247: one trailing RST is discarded, and the phase becomes FRAME. -/
def State.leaveScan (s : State) : State :=
  (if isRst s.bits.marker then s.setBits { s.bits with marker := 0xFF } else s).setPhase .frame

/-- End of scan (R247). -/
def endOfScan : Seq Unit := do
  let none ← look (fun s => s.bits.marker == 0xFF)
  onlyIf none seekMarker
  upd State.leaveScan

/-- One MCU with its restart check (R272, R273). -/
def mcuStep : Seq Unit := do
  runMcu
  let last ← look State.lastMcu
  restartCheck last
  upd State.nextMcu

/-- One step of SCAN (R210, R272, R273). -/
def scanStep : Seq Unit := do
  let ended ← look State.scanDone
  if ended then endOfScan else mcuStep

/-! ### One output row (phase OUTPUT) -/

/-- What the first OUTPUT step fixes (R370): the resampler records, `is_rgb` and the conversion. -/
def setupOutput : Seq Unit := do
  let live ← look State.live
  forEach live setupResampler
  upd (fun s => { s.setFlags { s.flags with isRgb := s.isRgbFrame } with cc := s.colourOp })

/-- The samples of pixel `i` of the current row, from the line buffers (R370). -/
def State.pixelAt (s : State) (i : Nat) : Samples := Vector.ofFn (fun k : Fin 4 => (s.rs.get k).lineBuf.getD i 0)

/-- The bytes of the current row (R370, R380). -/
def State.rowData (s : State) : List Byte :=
  (List.range s.frame.imgX.toNat).flatMap (fun i => convert s.cc (s.pixelAt i))

/-- Produce row `oj` (R370): it becomes the pending ROW event (R85). -/
def makeRow : Seq Unit := do
  let first ← look (fun s => s.pos.oj == 0)
  onlyIf first setupOutput
  let live ← look State.live
  forEach live rowStep
  upd (fun s => { s with rowPending := some (s.pos.oj, s.rowData) })

/-- The host accepts the pending row (R85), and the step ends (R370): after the last row the phase becomes DONE (R381). -/
def State.finishRow (j : BitVec 16) (data : List Byte) (s : State) : State :=
  let t := s.acceptRow j data
  { t with
    pos := { t.pos with oj := s.pos.oj + 1 }
    phase := if s.pos.oj.toNat + 1 = s.frame.imgY.toNat then .done else s.phase }

/-- The pending row is offered to the host: accepted if the host accepts one, else the step waits (R85). -/
def State.offerRow (s : State) : State :=
  match s.rowPending with
  | none => s
  | some (j, data) => if 0 < s.port.rowAccepts then s.finishRow j data else s

/-- One step of OUTPUT (R370, R380): a row that is waiting is offered again, else the next row is produced and offered. What
the step has written before it waits stands while the row waits (log 23). -/
def outputStep (s : State) : Host.Outcome State Fault Refusal :=
  if s.rowPending.isSome then .next s.offerRow
  else settle s (makeRow s.unheld) (fun _ t => .next t.offerRow)

/-! ### One step -/

/-- Whether the step begins at a cancellation point with an ABORT pending (R418): a step that waits on input or output is none. -/
def State.cancels (s : State) : Bool := s.ctl.abortReq && !s.ctl.stallIn && s.rowPending.isNone

/-- The step of the current phase (R210). -/
def phaseStep (s : State) : Host.Outcome State Fault Refusal :=
  match s.phase with
  | .soi => markerStep s
  | .header => markerStep s
  | .frame => markerStep s
  | .scan => runOp scanStep s
  | .finish => exec .dequantIdct s
  | .output => outputStep s
  | .idle => .next s
  | .done => .next s
  | .error => .next s

/-- One step of the sequencer (R210): none in IDLE, DONE and ERROR; else the cancellation check, then the phase's step. -/
def sequencerStep (s : State) : Host.Outcome State Fault Refusal :=
  if s.phase.waiting then .next s
  else if s.cancels then .next (s.takeError .cancelled)
  else phaseStep s

/-- One host write (R26, R80): CTRL acts; every other offset is ignored; an access that is not at a multiple of 4 is not
offered. -/
def hostWrite (w : CsrWrite) (s : State) : Host.Outcome State Fault Refusal :=
  if w.offset.toNat % 4 ≠ 0 then .refused .csrAccess
  else if w.offset = 0 then exec (decodeCtrl w.value) s
  else .next s

/-- The issued word is taken (log 7): a command acts whatever is held; the instruction of any other word runs, and stays issued
while it is held; a DC category above 15 is BadHuffmanCode (R116); a word that decodes to nothing is refused. -/
def issueStep (e : Enc) (s : State) : Host.Outcome State Fault Refusal :=
  let t := { s with issue := none }
  match e, decode e with
  | .ctrl w, _ => exec (decodeCtrl w) t
  | _, .ok i => holdFrom s (exec i t)
  | _, .error .dcCategory => .next (t.takeError .badHuffmanCode)
  | _, .error _ => .refused .reservedWord

/-! ### Placing an instruction -/

/-- The phase in which a marker is met: SOI in SOI, a frame header marker in HEADER, every other in FRAME (R213, R214, R240). -/
def markerPhase (code : Byte) : Phase :=
  if code = 0xD8 then .soi
  else if code = 0xC0 ∨ code = 0xC1 ∨ code = 0xC2 then .header
  else .frame

/-- A marker word at the head of the input, zeros after it, in the phase that reads it (log 3). -/
def State.placeMarker (w : Nat) (s : State) : State :=
  let code : Byte := BitVec.ofNat 8 w
  { s.unheld with
    phase := markerPhase code
    ctl := { s.unheld.ctl with abortReq := false }
    bits := { s.bits with marker := 0xFF }
    issue := none
    rowPending := none
    port := { s.port with
      input := BitVec.ofNat 8 (w / 256) :: code :: List.replicate 32 0
      writes := [] } }

/-- A word of the opcode table placed where the next step takes it (log 3): a marker at the head of the input, a symbol or a
selector in the issue register, a command as the host's next write. -/
def State.placeWord (s : State) (nbits w : Nat) : State :=
  if nbits = 16 then s.placeMarker w
  else if nbits = 32 then { s with port := { s.port with writes := [{ offset := 0, value := BitVec.ofNat 32 w }] } }
  else { s with issue := tableEnc nbits w, port := { s.port with writes := [] } }

end Sys2Proof.Machine
end

