-- ==== Sys2Proof/Machine/Step.lean ====
section
/-! DEFINITION. One step of the machine: the host's next CSR write if there is one (R86: it takes effect between two steps), else
the issued word if there is one (log 7), else one step of the sequencer (R210). -/

namespace Sys2Proof.Machine

/-- One step. -/
def step (s : State) : Host.Outcome State Fault Refusal :=
  match s.port.writes, s.issue with
  | w :: rest, _ => hostWrite w { s with port := { s.port with writes := rest } }
  | [], some e => issueStep e s
  | [], none => sequencerStep s

/-- The state with an instruction of the opcode table stored where the next step takes it (log 3). -/
def State.withFetchWord (s : State) (nbits w : Nat) : State := s.placeWord nbits w

end Sys2Proof.Machine
end

