-- ==== Sys2Proof/Safety.lean ====
section
/-! DEFINITION. What counts as a sound state, and the terms the claims are stated in: the invariants of spec/10_state.md R55 and
spec/60_exceptions.md R410, the phase graph of spec/42_marker_parser.md R211, what a run without a model fault is, and the
byte strings and results the statements of the provers name. -/

namespace Sys2Proof.Machine

/-! ### Invariants -/

/-- R42, R43, R55, R190: 0 to 32 valid bits, and zeros below them. -/
abbrev BitMachine.Ok (b : BitMachine) : Prop :=
  0 ≤ b.count ∧ b.count ≤ 32 ∧ b.codeBuffer.toNat % 2 ^ (32 - b.count.toNat) = 0

/-- Every plane is in canonical form (R77, R78). -/
abbrev State.PlanesOk (s : State) : Prop :=
  ∀ c : Fin 4, Mem.wf (s.comp.get c).plane = true ∧ Mem.wf (s.comp.get c).coef = true

/-- The invariant every step keeps: the bit machine is sound, no latched marker is 0x00 (R45, R55), the planes are in
canonical form. -/
def State.Inv (s : State) : Prop := s.bits.Ok ∧ s.bits.marker ≠ 0 ∧ s.PlanesOk

/-- An error is recorded in phase ERROR, with the class of its code, and in no other phase (R22, R401, R410). -/
def State.ErrorRecorded (s : State) : Prop :=
  if s.phase = .error then ∃ e : ErrCode, s.errCode = e.code ∧ s.errClass = e.cls else s.errCode = 0 ∧ s.errClass = 0

/-- A step that meets no model fault (R414: a claim about the block takes this as its premise). -/
def State.NoModelFault (s : State) : Prop := ∀ f, step s ≠ .fault f

/-! ### The phase graph -/

/-- The transitions a step of the sequencer makes (R211), staying in a phase apart. -/
def phaseEdge (p q : Phase) : Bool :=
  match p, q with
  | .soi, .header => true
  | .header, .frame => true
  | .frame, .scan => true
  | .scan, .frame => true
  | .frame, .finish => true
  | .frame, .output => true
  | .finish, .output => true
  | .output, .done => true
  | p, .error => p.busy
  | _, _ => false

/-- It is the sequencer's turn: no host write and no issued word waits. -/
abbrev State.OwnTurn (s : State) : Prop := s.port.writes = [] ∧ s.issue = none

/-! ### Results -/

/-- The state after `k` of the supplied bytes have been taken (R71). -/
def State.consumed (k : Nat) (s : State) : State :=
  { s with port := { s.port with input := s.port.input.drop k }, bytePos := s.bytePos + BitVec.ofNat 32 k }

/-- The state in which a rule that began in `s` has raised `e` without changing anything else (R410). -/
def State.errored (e : ErrCode) (s : State) : State := s.unheld.takeError e

/-- The state after a segment of `k` bytes after its marker: the bytes are taken, and in HEADER `hdr_pad` is set (R214). -/
def State.afterSegment (k : Nat) (s : State) : State :=
  let t := (s.unheld).consumed k
  { t with ctl := { t.ctl with hdrPad := t.ctl.hdrPad || s.phase == .header } }

/-- Sample `(y, x)` of component `c`'s plane: none outside the plane or where nothing has been written (R77). -/
def State.sample (s : State) (c : Fin 4) (y x : Nat) : Option Byte :=
  if s.inPlane c y x then (s.comp.get c).plane.read (s.planeIndex c y x) else none

/-- Coefficient `i` of block `b` of component `c`: none outside the plane or where nothing has been written (R78). -/
def State.coefficient (s : State) (c : Fin 4) (b i : Nat) : Option (BitVec 16) :=
  if s.inCoef c b i then (s.comp.get c).coef.read (64 * b + i) else none

/-- Table `(tc, th)` is loaded and its fast table resolves the next bits to the symbol `v`, of `n` bits (R183). -/
abbrev State.NextSymbol (s : State) (tc : Fin 2) (th : Fin 4) (v : Byte) (n : Nat) : Prop :=
  (s.huffAt tc th).loaded = true ∧ (at? (s.huffAt tc th).fast (s.bits.top 9) 255).toNat < 255 ∧
    (at? (s.huffAt tc th).size (at? (s.huffAt tc th).fast (s.bits.top 9) 255).toNat 0).toNat = n ∧
    at? (s.huffAt tc th).values (at? (s.huffAt tc th).fast (s.bits.top 9) 255).toNat 0 = v

/-! ### Canonical codes (R151) -/

/-- How many codes have length `l + 1`. -/
def countAt (counts : Vector Byte 16) (l : Nat) : Nat := (at? counts l 0).toNat

/-- The first code of length `l + 1` of the canonical code of the counts. -/
def firstCode (counts : Vector Byte 16) : Nat → Nat
  | 0 => 0
  | l + 1 => 2 * (firstCode counts l + countAt counts l)

/-- The index of the first symbol of length `l + 1`. -/
def firstIndex (counts : Vector Byte 16) : Nat → Nat
  | 0 => 0
  | l + 1 => firstIndex counts l + countAt counts l

/-- At most 256 symbols, and every length that has codes has room for them (R150, R151). -/
abbrev ValidCounts (counts : Vector Byte 16) : Prop :=
  countSum counts ≤ 256 ∧ ∀ l < 16, countAt counts l ≠ 0 → firstCode counts l + countAt counts l ≤ 2 ^ (l + 1)

/-- The size and code arrays of a table built from the counts (R150, R151). -/
abbrev HuffTable.Canonical (T : HuffTable) (counts : Vector Byte 16) : Prop :=
  ∀ l < 16, ∀ j < countAt counts l,
    (at? T.size (firstIndex counts l + j) 0).toNat = l + 1 ∧
      (at? T.code (firstIndex counts l + j) 0).toNat = firstCode counts l + j

/-! ### Byte strings -/

/-- A data byte of the entropy-coded data as it stands in the stream: 0xFF is stuffed, and any number of fill bytes may stand
before the stuffed zero (R112, R180). -/
def ecsItem (p : Byte × Nat) : List Byte := if p.1 = 0xFF then 0xFF :: (List.replicate p.2 0xFF ++ [0x00]) else [p.1]

/-- Data bytes as they stand in the stream. -/
def ecsBytes (ds : List (Byte × Nat)) : List Byte := ds.flatMap ecsItem

/-- A marker as it stands in the stream, with `k` fill bytes before its code (R100). -/
def markerBytes (k : Nat) (code : Byte) : List Byte := 0xFF :: (List.replicate k 0xFF ++ [code])

/-- Data bytes appended to the accumulator one after the other (R180). -/
def BitMachine.appendAll (ds : List (Byte × Nat)) (b : BitMachine) : BitMachine := ds.foldl (fun m d => m.append d.1) b

/-- A quantisation table definition of DQT (R105): its precision, its id and its 64 entries in zig-zag order. -/
structure QuantDef where
  wide : Bool
  id : Fin 4
  entries : Vector (BitVec 16) 64
  deriving DecidableEq, Repr

/-- The bytes of an entry (R105). -/
def QuantDef.entryBytes (d : QuantDef) (e : BitVec 16) : List Byte :=
  if d.wide then [e.extractLsb' 8 8, e.extractLsb' 0 8] else [e.extractLsb' 0 8]

/-- The bytes of a definition (R105). -/
def QuantDef.bytes (d : QuantDef) : List Byte :=
  BitVec.ofNat 8 (16 * d.wide.toNat + d.id.val) :: d.entries.toList.flatMap d.entryBytes

/-- The value an entry stores (R105, R217). -/
def QuantDef.value (d : QuantDef) (k : Fin 64) : BitVec 16 :=
  if d.wide then d.entries.get k else ((d.entries.get k).extractLsb' 0 8).zeroExtend 16

/-- A Huffman table definition of DHT (R106): its class, its id, its counts and its values. -/
structure HuffDef where
  tc : Fin 2
  th : Fin 4
  counts : Vector Byte 16
  values : List Byte
  deriving DecidableEq, Repr

/-- The bytes of a definition (R106). -/
def HuffDef.bytes (d : HuffDef) : List Byte := BitVec.ofNat 8 (16 * d.tc.val + d.th.val) :: (d.counts.toList ++ d.values)

/-- A definition that R218 and R151 accept, with as many values as its counts say. -/
abbrev HuffDef.Valid (d : HuffDef) : Prop := ValidCounts d.counts ∧ d.values.length = countSum d.counts

/-- The last of the definitions that names table `(tc, th)`. -/
def lastDef (tc : Fin 2) (th : Fin 4) (ds : List HuffDef) : Option HuffDef :=
  (ds.filter (fun d => d.tc == tc && d.th == th)).getLast?

/-- The table has been loaded from the definition (R218, R150, R151). -/
def HuffTable.LoadedFrom (T : HuffTable) (d : HuffDef) : Prop :=
  T.loaded = true ∧ T.nsym.toNat = d.values.length ∧ (∀ i < d.values.length, at? T.values i 0 = d.values.getD i 0) ∧
    T.Canonical d.counts

/-- Table `(tc, th)` of `t` is what the definitions leave of that of `s`: loaded from the last that names it, else as it was. -/
def State.TableAfter (s : State) (ds : List HuffDef) (t : State) (tc : Fin 2) (th : Fin 4) : Prop :=
  match lastDef tc th ds with
  | none => t.huffAt tc th = s.huffAt tc th
  | some d => (t.huffAt tc th).LoadedFrom d

/-- A component specification of SOF (R107): id, sampling byte, quantisation table id. -/
structure CompSpec where
  id : Byte
  hv : Byte
  tq : Byte
  deriving DecidableEq, Repr

/-- The horizontal sampling factor (R107). -/
def CompSpec.h (c : CompSpec) : Nat := c.hv.toNat / 16

/-- The vertical sampling factor (R107). -/
def CompSpec.v (c : CompSpec) : Nat := c.hv.toNat % 16

/-- The bytes of the specifications (R107). -/
def specBytes (cs : List CompSpec) : List Byte := cs.flatMap (fun c => [c.id, c.hv, c.tq])

/-- The greatest horizontal factor (R234). -/
def maxH (cs : List CompSpec) : Nat := (cs.map CompSpec.h).foldl max 0

/-- The greatest vertical factor (R234). -/
def maxV (cs : List CompSpec) : Nat := (cs.map CompSpec.v).foldl max 0

/-- The padded plane width of a component (R235, R236). -/
def planeW (cs : List CompSpec) (x : Nat) (c : CompSpec) : Nat := ceilDiv x (8 * maxH cs) * c.h * 8

/-- The padded plane height of a component (R235, R236). -/
def planeH (cs : List CompSpec) (y : Nat) (c : CompSpec) : Nat := ceilDiv y (8 * maxV cs) * c.v * 8

/-- The bytes a component's planes need (R237). -/
def planeBytes (cs : List CompSpec) (x y : Nat) (progressive : Bool) (c : CompSpec) : Nat :=
  planeW cs x c * planeH cs y c + (if progressive then 2 * planeW cs x c * planeH cs y c else 0)

/-- What the frame header rules ask of a frame (R231 to R237), the length apart. -/
abbrev FrameAccepted (cfg : Config) (cs : List CompSpec) (x y : Nat) (progressive : Bool) : Prop :=
  (cs.length = 1 ∨ cs.length = 3 ∨ cs.length = 4) ∧ x ≠ 0 ∧ y ≠ 0 ∧
    (∀ c ∈ cs, 1 ≤ c.h ∧ c.h ≤ 4 ∧ 1 ≤ c.v ∧ c.v ≤ 4 ∧ c.tq.toNat ≤ 3 ∧ maxH cs % c.h = 0 ∧ maxV cs % c.v = 0 ∧
      planeBytes cs x y progressive c ≤ cfg.maxAllocBytes) ∧
    x * y * cs.length ≤ cfg.maxAllocBytes ∧ (cs.map (planeBytes cs x y progressive)).sum ≤ cfg.planeMemBytes

/-- A component specification with no error of its own (R232). -/
abbrev CompSpec.Legal (c : CompSpec) : Prop := 1 ≤ c.h ∧ c.h ≤ 4 ∧ 1 ≤ c.v ∧ c.v ≤ 4 ∧ c.tq.toNat ≤ 3

/-- Every component's sampling factors divide the greatest (R234). -/
abbrev IntegerRatios (cs : List CompSpec) : Prop := ∀ c ∈ cs, maxH cs % c.h = 0 ∧ maxV cs % c.v = 0

/-- How many of three component ids are 'R', 'G', 'B' in that order (R232). -/
def rgbCount (cs : List CompSpec) : Nat :=
  match cs with
  | [a, b, c] => (a.id == 0x52).toNat + (b.id == 0x47).toNat + (c.id == 0x42).toNat
  | _ => 0

/-! ### The bit machine filled -/

/-- `f` is the state after FillBits has run in `s` with every byte supplied (R180): zero bytes after a latched marker, data bytes up
to more than 24 bits, or data bytes up to a marker, which is latched. -/
def State.Filled (s f : State) : Prop :=
  let room := (24 - s.bits.count.toNat) / 8
  (s.bits.noMoreBits = true ∧
    f = { s.unheld with bits := { s.bits with codeBits := s.bits.codeBits + BitVec.ofNat 8 (8 * (room + 1)) } }) ∨
  (s.bits.noMoreBits = false ∧ ∃ (ds : List (Byte × Nat)) (rest : List Byte), ds.length = room + 1 ∧
    s.port.input = ecsBytes ds ++ rest ∧
    f = { s.unheld.consumed (ecsBytes ds).length with bits := s.bits.appendAll ds }) ∨
  (s.bits.noMoreBits = false ∧ ∃ (ds : List (Byte × Nat)) (k : Nat) (m : Byte) (rest : List Byte), ds.length ≤ room ∧ m ≠ 0 ∧
    m ≠ 0xFF ∧ s.port.input = ecsBytes ds ++ (markerBytes k m ++ rest) ∧
    f = { s.unheld.consumed ((ecsBytes ds).length + (k + 2)) with
      bits := { s.bits.appendAll ds with marker := m, noMoreBits := true } })

/-- `f` is `s` after `if code_bits < n: FillBits()` with every byte supplied (R182, R186). -/
def State.FilledTo (n : Nat) (s f : State) : Prop :=
  if (n : Int) ≤ s.bits.count then f = s.unheld else 0 ≤ s.bits.count ∧ s.Filled f

/-! ### Refinement (R280 to R283) -/

/-- How many of the positions `k` to `e - 1` have a coefficient that is not 0. -/
def nonzeros (co : Nat → BitVec 16) (k e : Nat) : Nat := ((List.range (e - k)).filter (fun i => co (k + i) != 0)).length

/-- Where Advance with run `r` stops in the band `k` to `last` (R282): at the zero coefficient with `r` zero ones before it, else past
the band. -/
abbrev StopsAt (co : Nat → BitVec 16) (k last r e : Nat) : Prop :=
  (k ≤ e ∧ e ≤ last ∧ co e = 0 ∧ e - k = r + nonzeros co k e) ∨ (e = last + 1 ∧ last + 1 - k ≤ r + nonzeros co k (last + 1))

/-- A nonzero coefficient `p` after its correction bit `b`, at bit position `al` (R283). -/
def corrected (al : Nat) (p : BitVec 16) (b : Bool) : BitVec 16 :=
  if b = true ∧ p.getLsbD al = false then BitVec.ofInt 16 (if 0 < p.toInt then p.toInt + 2 ^ al else p.toInt - 2 ^ al) else p

/-- The coefficients at the positions `k` to `last` of the block at the scan position are written, and are those of `co`. -/
def State.BandIs (s : State) (co : Nat → BitVec 16) (k last : Nat) : Prop :=
  ∀ j, k ≤ j → j ≤ last → s.coefficient s.blockComp s.blockNum (dezigzag j).val = some (co j)

/-- What Advance leaves of the band when it stops at `e` with the new coefficient `v` (R282, R283): each nonzero coefficient it has
passed is corrected by a bit of its own, the first of them at place `first` of the bits there, in the order of their positions; `v`
stands at `e`; every other coefficient is as it was. -/
def State.Refined (s : State) (co : Nat → BitVec 16) (k last e first : Nat) (v : BitVec 16) (t : State) : Prop :=
  (∀ j, k ≤ j → j ≤ last → t.coefficient s.blockComp s.blockNum (dezigzag j).val = some (
    if j < e then
      if co j = 0 then 0
      else corrected s.scan.succLow.toNat (co j) (s.bits.codeBuffer.getLsbD (31 - (first + nonzeros co k j)))
    else if j = e then v
    else co j)) ∧
  (∀ (m : Fin 4) (b z : Nat), z < 64 →
    (m = s.blockComp → b = s.blockNum → ∀ j, k ≤ j → j ≤ last → z ≠ (dezigzag j).val) →
    t.coefficient m b z = s.coefficient m b z)

/-! ### The inverse DCT by exact integers (R330 to R335) -/

/-- What output `r` of IDCT1D on `a 0` to `a 7` shifts, without the bias: `x` plus or minus `t` (R331, R332, R334) with the integers
of R330, summed exactly. -/
def dctSum (a : Nat → Int) (r : Nat) : Int :=
  let p1 := (a 2 + a 6) * 2217
  let t2 := p1 + a 6 * (-7567)
  let t3 := p1 + a 2 * 3135
  let t0 := (a 0 + a 4) * 4096
  let t1 := (a 0 - a 4) * 4096
  let p5 := (a 7 + a 3 + (a 5 + a 1)) * 4816
  let q1 := p5 + (a 7 + a 1) * (-3685)
  let q2 := p5 + (a 5 + a 3) * (-10497)
  let q3 := (a 7 + a 3) * (-8034)
  let q4 := (a 5 + a 1) * (-1597)
  let u0 := a 7 * 1223 + q1 + q3
  let u1 := a 5 * 8410 + q2 + q4
  let u2 := a 3 * 12586 + q2 + q3
  let u3 := a 1 * 6149 + q1 + q4
  [t0 + t3 + u3, t1 + t2 + u2, t1 - t2 + u1, t0 - t3 + u0, t0 - t3 - u0, t1 - t2 - u1, t1 + t2 - u2, t0 + t3 - u3].getD r 0

/-- Output `r` of a pass with bias `B` and shift `S` (R334): the sum wrapped once to an s32, which is what wrapping every sum and
product gives, and shifted arithmetically. -/
def dctPass (B : Int) (S : Nat) (a : Nat → Int) (r : Nat) : Int := (BitVec.ofInt 32 (dctSum a r + B)).toInt / 2 ^ S

/-- The column pass: `v[8*r + i]` (R333). -/
def dctColumn (d : Vector (BitVec 16) 64) (i r : Nat) : Int :=
  if ∀ k : Fin 7, at? d (8 * (k.val + 1) + i) 0 = 0 then (at? d i 0).toInt * 4
  else dctPass 512 10 (fun k => (at? d (8 * k + i) 0).toInt) r

/-- The row pass: `px[8*r + c]` (R335). -/
def dctPixel (d : Vector (BitVec 16) 64) (r c : Nat) : Byte :=
  BitVec.ofNat 8 (min 255 (dctPass 16842752 17 (fun i => dctColumn d i r) c).toNat)

/-! ### Scans -/

/-- The table byte that component `c` keeps from the bindings of a scan header: that of its last one (R242). -/
def lastBinding (c : Fin 4) (bs : List (Fin 4 × Byte)) : Byte :=
  (((bs.filter (fun p => p.1 == c)).getLast?).map Prod.snd).getD 0

/-- A binding of a scan header that R242 accepts: a live component named by its id, and table ids up to 3. -/
abbrev State.LegalBinding (s : State) (p : Fin 4 × Byte) : Prop :=
  s.findComp (s.comp.get p.1).id = some p.1 ∧ p.2.toNat / 16 ≤ 3 ∧ p.2.toNat % 16 ≤ 3

/-- The bytes of the bindings (R108). -/
def State.bindingBytes (s : State) (bs : List (Fin 4 × Byte)) : List Byte := bs.flatMap (fun p => [(s.comp.get p.1).id, p.2])

/-- The parameters of a scan header that R243 and R244 accept. -/
abbrev State.LegalParameters (s : State) (ss se a : Byte) : Prop :=
  if s.frame.progressive then ss.toNat ≤ se.toNat ∧ se.toNat ≤ 63 ∧ a.toNat / 16 ≤ 13 ∧ a.toNat % 16 ≤ 13
  else ss = 0 ∧ a = 0 ∧ (s.cfg.strictBaselineSpecEnd = true → se = 63)

/-- The Huffman tables that a scan of parameters `ss` and `a` needs are loaded, for a component with table byte `q` (R245). -/
abbrev State.HuffmanPresent (s : State) (ss a q : Byte) : Prop :=
  if s.frame.progressive then
    (ss = 0 → a.toNat / 16 = 0 → (s.huffAt 0 (Fin.ofNat 4 (q.toNat / 16))).loaded = true) ∧
      (ss ≠ 0 → (s.huffAt 1 (Fin.ofNat 4 (q.toNat % 16))).loaded = true)
  else (s.huffAt 0 (Fin.ofNat 4 (q.toNat / 16))).loaded = true ∧ (s.huffAt 1 (Fin.ofNat 4 (q.toNat % 16))).loaded = true

/-- The quantisation table that a scan needs for component `c` is loaded (R245). -/
abbrev State.QuantPresent (s : State) (c : Fin 4) : Prop :=
  s.frame.progressive = false → s.qtLoaded.get (idx2 (s.comp.get c).tq) = true

/-- The block operation of the scan (R270). -/
def State.scanInstr (s : State) : Instr :=
  if s.frame.progressive = false then .blkBaseline
  else if s.scan.scanN = 1 ∧ s.scan.specStart ≠ 0 then (if s.scan.succHigh = 0 then .blkAcFirst else .blkAcRefine)
  else if s.scan.succHigh = 0 then .blkDcFirst else .blkDcRefine

/-- `t` is `s` with the transform of its block buffer placed in component `c`'s plane as block `(gx, gy)` (R284, R337). -/
def State.Placed (c : Fin 4) (gx gy : Nat) (s t : State) : Prop :=
  t = { s.setComp c { s.comp.get c with plane := (t.comp.get c).plane } with
    blk := { s.blk with px := idctBlock s.blk.data } } ∧
  (∀ y x, y < 8 → x < 8 → t.sample c (8 * gy + y) (8 * gx + x) = some (at? (idctBlock s.blk.data) (8 * y + x) 0)) ∧
  (∀ n y x, ¬(n = c ∧ y / 8 = gy ∧ x / 8 = gx) → t.sample n y x = s.sample n y x)

/-- The block at the scan position has been decoded without an error or a stall, and in a sequential frame transformed and
placed (R270, R284). -/
def State.BlockDone (s t : State) : Prop :=
  ∃ m : State, exec s.scanInstr s = .next m ∧ m.phase = .scan ∧ m.ctl.stallIn = false ∧
    if s.frame.progressive then t = m else m.Placed s.blockComp s.blockCol s.blockRow t

/-- The blocks of a list of positions `(sk, by, bx)`, one after the other (R273). -/
def BlocksDone : List (Nat × Nat × Nat) → State → State → Prop
  | [], s, t => t = s
  | p :: ps, s, t =>
    ∃ u : State, State.BlockDone { s with pos := { s.pos with
      sk := BitVec.ofNat 2 p.1, brow := BitVec.ofNat 3 p.2.1, bcol := BitVec.ofNat 3 p.2.2 } } u ∧ BlocksDone ps u t

/-- The blocks of one MCU in their order: for each scan component its `v` rows of `h` blocks (R273). -/
def State.mcuPositions (s : State) : List (Nat × Nat × Nat) :=
  (List.range s.scan.scanN.toNat).flatMap (fun sk =>
    let c := s.comp.get (idx2 (s.scan.order.get (Fin.ofNat 4 sk)))
    (List.range c.v.toNat).flatMap (fun y => (List.range c.h.toNat).map (fun x => (sk, y, x))))

/-- All blocks of the MCU at the scan position have been decoded: one block (R272), or the interleaved group (R273). -/
def State.McuDone (s t : State) : Prop := if s.scan.scanN = 1 then s.BlockDone t else BlocksDone s.mcuPositions s t

/-- The MCU position after this one, in row-major order (R272, R273). -/
def State.posAfterMcu (s : State) : LoopPos :=
  let cols := if s.scan.scanN = 1 then ceilDiv (s.comp.get (idx2 (s.scan.order.get 0))).x.toNat 8 else s.frame.mcuX.toNat
  if s.pos.mcuI.toNat + 1 = cols then { s.pos with mcuI := 0, mcuJ := s.pos.mcuJ + 1 }
  else { s.pos with mcuI := s.pos.mcuI + 1 }

end Sys2Proof.Machine
end

