-- ==== Sys2Proof/Certificates/Slice0/Obligations.lean ====
section
/-! DEFINITION. The statements for the provers, one per obligation of OBLIGATIONS.json, in its order: each says what its
docstring names; the terms they share are defined in Sys2Proof/Safety.lean. -/

open Sys2Proof Sys2Proof.Machine

/-- Decoding the encoding of any well-formed instruction gives the instruction back (30_encoding.md R101; R115; R116; R117;
R118; R119; R120; R125; R27). -/
def Obligations.DecodeOfEncode : Prop :=
  ∀ i : Instr, i.wf = true → decode (encode i) = .ok i

/-- A word that decodes is well formed, and but for CTRL it is the only word of its instruction at its level (30_encoding.md
R101; R115; R116; R117; R118; R119; R120; R125). -/
def Obligations.EncodeOfDecode : Prop :=
  ∀ (e : Enc) (i : Instr), decode e = .ok i → i.wf = true ∧ ((∀ w, e ≠ .ctrl w) → encode i = e)

/-- Words written out from the encoding tables decode to their instructions; reserved and fill codes are refused
(30_encoding.md R100; R101; R116; R117; R118; R119; R120; R115; R125; R27). -/
def Obligations.DecodedWords : Prop :=
  decode (.marker 0xFFD8) = .ok .soi ∧ decode (.marker 0xFFD5) = .ok (.rst 5) ∧ decode (.marker 0xFFDA) = .ok .sos ∧
    decode (.marker 0xFFE3) = .ok (.appn 3) ∧ decode (.marker 0xFFC8) = .ok (.res 0xC8) ∧
    decode (.dcSym 0x05) = .ok (.dcDiff 5) ∧ decode (.acSym 0x23) = .ok (.acCoef 2 3) ∧
    decode (.acpSym 0x40) = .ok (.acpEobrun 4) ∧ decode (.acrSym 0x21) = .ok (.acrCoef 2) ∧
    decode (.dcrBit 1) = .ok (.dcRefineBit true) ∧ decode (.mag 3 2) = .ok (.mag 3 2) ∧
    decode (.unit 0x33) = .ok .rsHv2 ∧ decode (.ctrl 0x9) = .ok (.ctrlStart false true) ∧
    decode (.marker 0xFFFF) = .error .fillByte ∧ decode (.dcSym 0x10) = .error .dcCategory ∧
    decode (.unit 0x15) = .error .reservedSelector

/-- One write of CTRL acts as its bits say: SOFT_RESET, then START, then ABORT unless START is set, and IRQ_EN as a level
(10_state.md R27; R417). -/
def Obligations.CtrlWordEffect : Prop :=
  ∀ (w : BitVec 32) (s : State),
    exec (decodeCtrl w) s =
      let s1 := if w.getLsbD 2 then s.softReset else s
      let s2 := if w.getLsbD 0 then s1.start else if w.getLsbD 1 then s1.requestAbort else s1
      .next { s2 with ctl := { s2.ctl with irqEn := w.getLsbD 3 } }

/-- A step runs the decoded instruction: a host write, an issued word, a latched marker, or the marker at the head of the
stream (42_marker_parser.md R210; R212; R213; R214; R240; R86). The clause about an issued word is the model's choice (log 7,
DESIGN CHOICE: the issue register); that a step in which a read waits is held as a whole (`holdFrom`) is the model's reading of
R11 and R71 (log 1, DEDUCED). -/
def Obligations.StepRunsDecoded : Prop :=
  (∀ (s : State) (w : CsrWrite) (rest : List CsrWrite), s.port.writes = w :: rest → w.offset = 0 →
      step s = exec (decodeCtrl w.value) { s with port := { s.port with writes := rest } }) ∧
  (∀ (s : State) (e : Enc) (i : Instr), s.port.writes = [] → s.issue = some e → (∀ w, e ≠ .ctrl w) →
      decode e = .ok i → step s = holdFrom s (exec i { s with issue := none })) ∧
  (∀ (s : State) (i : Instr), s.OwnTurn → (s.phase = .soi ∨ s.phase = .header ∨ s.phase = .frame) → s.cancels = false →
      s.bits.marker ≠ 0xFF → decodeCode s.bits.marker = .ok i →
      step s = holdFrom s (exec i { s.unheld with
        bits := { s.bits with marker := 0xFF }, lastMarker := s.bits.marker, lastMarkerValid := true })) ∧
  (∀ (s : State) (k : Nat) (code : Byte) (rest : List Byte) (i : Instr), s.OwnTurn →
      (s.phase = .soi ∨ s.phase = .header ∨ s.phase = .frame) → s.cancels = false → s.bits.marker = 0xFF →
      s.port.input = markerBytes k code ++ rest → decodeCode code = .ok i →
      step s = holdFrom s (exec i { s.unheld.consumed (k + 2) with lastMarker := code, lastMarkerValid := true }))

/-- A pending ABORT ends the decode at the start of the next step (60_exceptions.md R418; R410; R402). That a step in IDLE, DONE
or ERROR is a step to the same state is the model's reading of R210, which lets no step be taken there (log 28, DEDUCED). -/
def Obligations.CancellationTaken : Prop :=
  (∀ s : State, s.OwnTurn → s.phase.busy = true → s.ctl.abortReq = true → s.ctl.stallIn = false → s.rowPending = none →
      step s = .next { s with
        errCode := 39, errClass := 4, phase := .error, ctl := { s.ctl with abortReq := false } }) ∧
  (∀ s : State, s.OwnTurn → (s.phase = .idle ∨ s.phase = .done ∨ s.phase = .error) → step s = .next s)

/-- A step of the sequencer stays in its phase or follows the phase graph (42_marker_parser.md R211). -/
def Obligations.PhaseGraph : Prop :=
  ∀ s t : State, s.OwnTurn → step s = .next t → t.phase = s.phase ∨ phaseEdge s.phase t.phase = true

/-- An error code is recorded exactly in phase ERROR, with its class, after every step (10_state.md R22; 60_exceptions.md
R401; R405; R410; R413). -/
def Obligations.ErrorRecordKept : Prop :=
  ∀ s t : State, s.ErrorRecorded → s.issue = none → step s = .next t → t.ErrorRecorded

/-- Every step keeps the bit machine sound, the latched marker not 0x00, and the planes in canonical form (10_state.md R42;
R43; R45; R55; R77; R78; R190). -/
def Obligations.InvariantKept : Prop :=
  ∀ s t : State, s.Inv → step s = .next t → t.Inv

/-- The state after power-on reset meets the invariants (70_reset_and_hazards.md R440; 10_state.md R55). -/
def Obligations.ResetMeetsInvariants : Prop :=
  State.reset.Inv ∧ State.reset.ErrorRecorded

/-- Each error has the code and class of the error table, and raising it writes only the recorded error, abort_req and the
phase (60_exceptions.md R402; R401; R410). -/
def Obligations.ErrorCodes : Prop :=
  ([ErrCode.endOfStream, .noSoi, .expectedMarker, .unknownMarker, .unexpectedMarker, .unsupportedProcess, .badDqtType,
      .badDqtTable, .badDqtLength, .badDhtHeader, .badCodeLengths, .badDhtLength, .badDriLength, .badSegmentLength,
      .badSofLength, .badPrecision, .zeroHeight, .zeroWidth, .badComponentCount, .badH].map (fun e => (e.code.toNat, e.cls.toNat)) =
    [(1, 1), (2, 1), (3, 1), (4, 1), (5, 1), (6, 3), (7, 1), (8, 1), (9, 1), (10, 1), (11, 1), (12, 1), (13, 1), (14, 1),
      (15, 1), (16, 3), (17, 3), (18, 1), (19, 3), (20, 1)]) ∧
  ([ErrCode.badV, .badTq, .nonIntegerSampling, .sizeOverflow, .allocFailed, .badSosComponentCount, .badSosLength,
      .badSosComponentId, .badDcTableIndex, .badAcTableIndex, .badSos, .missingHuffmanTable, .missingQuantTable,
      .badHuffmanCode, .badProgressiveScan, .noResetMarker, .badDnlLength, .badDnlHeight, .cancelled].map
        (fun e => (e.code.toNat, e.cls.toNat)) =
    [(21, 1), (22, 1), (23, 3), (24, 2), (25, 2), (26, 1), (27, 1), (28, 1), (29, 1), (30, 1), (31, 1), (32, 1), (33, 1),
      (34, 1), (35, 1), (36, 1), (37, 1), (38, 1), (39, 4)]) ∧
  (∀ (e : ErrCode) (s : State), s.takeError e =
      { s with errCode := e.code, errClass := e.cls, phase := .error, ctl := { s.ctl with abortReq := false } })

/-- Power-on reset leaves every register at its POR value (R440). -/
def Obligations.PowerOnValues : Prop :=
  let s := State.reset
  s.phase = .idle ∧ s.errCode = 0 ∧ s.errClass = 0 ∧ s.bytePos = 0 ∧ s.rowsEmitted = 0 ∧
    s.pos = { mcuI := 0, mcuJ := 0, sk := 0, bcol := 0, brow := 0, fk := 0, fi := 0, fj := 0, oj := 0 } ∧
    s.ctl = { irqEn := false, abortReq := false, geomValid := false, hdrPad := false, stallIn := false, held := 0 } ∧
    s.irq = false ∧ (∀ tc th, (s.huffAt tc th).loaded = false) ∧ (∀ q, s.qtLoaded.get q = false) ∧
    s.frame = { imgX := 0, imgY := 0, imgN := 0, progressive := false, hMax := 0, vMax := 0, mcuW := 0, mcuH := 0,
                mcuX := 0, mcuY := 0, outN := 0 } ∧
    (∀ c, s.comp.get c = { id := 0, h := 0, v := 0, tq := 0, hd := 0, ha := 0, dcPred := 0, x := 0, y := 0, w2 := 0, h2 := 0,
                           coeffW := 0, coeffH := 0, plane := [], coef := [] }) ∧
    s.planesAllocated = false ∧
    s.scan = { scanN := 0, order := Vector.replicate 4 0, specStart := 0, specEnd := 0, succHigh := 0, succLow := 0,
               eobRun := 0 } ∧
    s.restartInterval = 0 ∧ s.todo = 0 ∧
    s.flags = { jfif := false, app14Valid := false, app14 := 0, rgbIds := 0, isRgb := false } ∧
    (∀ c, s.rs.get c = { hs := 0, vs := 0, wLores := 0, ystep := 0, ypos := 0, line0 := 0, line1 := 0, kern := 0, lineBuf := [] }) ∧
    s.bits = { codeBuffer := 0, codeBits := 0, noMoreBits := false, marker := 0xFF } ∧
    s.lastMarker = 0 ∧ s.lastMarkerValid = false ∧ s.rowPending = none ∧ s.port.events = [] ∧ s.port.input = []

/-- SOFT_RESET acts at once in every phase: every register takes its POR value, held bytes stay consumed, a pending row is
withdrawn (70_reset_and_hazards.md R441; R451; 60_exceptions.md R417; 10_state.md R27). The model's: that irq_en takes the level
of the write (log 10, DEDUCED); that what the host has offered stays in the port until a START drops it, its end of stream with
it (log 4, DESIGN CHOICE); that table contents and the model's own registers are 0 (logs 5 and 6, DESIGN CHOICE). -/
def Obligations.SoftResetCommand : Prop :=
  ∀ (s : State) (start abort irqEn : Bool),
    exec (.ctrlSoftReset start abort irqEn) s = .next { State.reset with
      cfg := s.cfg
      phase := if start then .soi else .idle
      ctl := { State.reset.ctl with irqEn := irqEn }
      port := if start then { s.port with input := [], eos := false }
        else { s.port with input := s.port.input.drop s.ctl.held.toNat } }

/-- START begins a decode from IDLE, DONE or ERROR with every register at its START value and no byte of the old stream, and is
ignored while BUSY (70_reset_and_hazards.md R442; R445; R451; 60_exceptions.md R417). The model's: that irq_en takes the level of
the write, where START leaves it unchanged (log 10, DEDUCED); that an end-of-stream signal is dropped with the old bytes (log 4,
DESIGN CHOICE); that table contents and the model's own registers are 0 (logs 5 and 6, DESIGN CHOICE). -/
def Obligations.StartCommand : Prop :=
  (∀ (s : State) (abort irqEn : Bool), (s.phase = .idle ∨ s.phase = .done ∨ s.phase = .error) →
      exec (.ctrlStart abort irqEn) s = .next { State.reset with
        cfg := s.cfg, phase := .soi, ctl := { State.reset.ctl with irqEn := irqEn }
        port := { s.port with input := [], eos := false } }) ∧
  (∀ (s : State) (abort irqEn : Bool), s.phase.busy = true →
      exec (.ctrlStart abort irqEn) s = .next { s with ctl := { s.ctl with irqEn := irqEn } })

/-- ABORT sets abort_req while BUSY and is ignored otherwise; a CTRL write without a command sets only irq_en, and irq
follows (60_exceptions.md R415; R417; 10_state.md R27; R53). -/
def Obligations.AbortAndIrqCommands : Prop :=
  (∀ (s : State) (irqEn : Bool), s.phase.busy = true →
      exec (.ctrlAbort irqEn) s = .next { s with ctl := { s.ctl with abortReq := true, irqEn := irqEn } }) ∧
  (∀ (s : State) (irqEn : Bool), s.phase.busy = false →
      exec (.ctrlAbort irqEn) s = .next { s with ctl := { s.ctl with irqEn := irqEn } }) ∧
  (∀ (s : State) (level : Bool), ∃ t : State, exec (.ctrlIrqEn level) s = .next t ∧
      t = { s with ctl := { s.ctl with irqEn := level } } ∧
      (t.irq = true ↔ level = true ∧ (s.phase = .done ∨ s.phase = .error)))

/-- STATUS shows the phase, by its code, and the flags at their bits (10_state.md R28; R21). -/
def Obligations.StatusFields : Prop :=
  (∀ s : State, ∃ v : BitVec 32, s.csrRead 0x04 = some v ∧
      let code : BitVec 4 :=
        match s.phase with
        | .idle => 0
        | .soi => 1
        | .header => 2
        | .frame => 3
        | .scan => 4
        | .finish => 5
        | .output => 6
        | .done => 7
        | .error => 8
      v.getLsbD 0 = decide (1 ≤ code.toNat ∧ code.toNat ≤ 6) ∧
      v.getLsbD 1 = decide (code.toNat = 7) ∧ v.getLsbD 2 = decide (code.toNat = 8) ∧
      v.getLsbD 3 = s.ctl.geomValid ∧ v.getLsbD 4 = s.ctl.stallIn ∧ v.getLsbD 5 = s.rowPending.isSome ∧
      v.getLsbD 6 = s.ctl.abortReq ∧ v.getLsbD 7 = false ∧ v.extractLsb' 8 4 = code ∧
      v.getLsbD 12 = s.frame.progressive ∧ v.extractLsb' 13 19 = 0) ∧
  State.reset.csrRead 0x04 = some 0

/-- The other CSRs show their registers at their bits, unlisted offsets read 0, and writes elsewhere than CTRL are ignored
(10_state.md R26; R27; R29; R30; R31; R32; R33; R34; R35; R91). The model's: the bytes of a held step (log 1, DEDUCED); that a
misaligned read gives none (log 24, DEDUCED); what bit 17 of IMG_INFO shows in phase ERROR (log 34, DESIGN CHOICE). -/
def Obligations.OtherCsrFields : Prop :=
  (∀ s : State, ∃ c e z i b r l p : BitVec 32,
      s.csrRead 0x00 = some c ∧ s.csrRead 0x08 = some e ∧ s.csrRead 0x0C = some z ∧ s.csrRead 0x10 = some i ∧
      s.csrRead 0x14 = some b ∧ s.csrRead 0x18 = some r ∧ s.csrRead 0x1C = some l ∧ s.csrRead 0x20 = some p ∧
      c.getLsbD 3 = s.ctl.irqEn ∧ c.extractLsb' 0 3 = 0 ∧ c.extractLsb' 4 28 = 0 ∧
      e.extractLsb' 0 8 = s.errCode ∧ e.extractLsb' 8 3 = s.errClass ∧ e.extractLsb' 11 21 = 0 ∧
      z.extractLsb' 0 16 = s.frame.imgX ∧ z.extractLsb' 16 16 = s.frame.imgY ∧
      i.extractLsb' 0 3 = s.frame.imgN ∧ i.extractLsb' 3 3 = s.frame.outN ∧ i.getLsbD 6 = s.frame.progressive ∧
      i.getLsbD 7 = s.flags.jfif ∧ i.getLsbD 8 = s.flags.app14Valid ∧
      i.extractLsb' 9 8 = (if s.flags.app14Valid then s.flags.app14 else 0) ∧ 
      i.getLsbD 17 = (if s.phase = .output ∨ s.phase = .done then
          s.frame.imgN == 3 && (s.flags.rgbIds == 3 || (s.flags.app14Valid && s.flags.app14 == 0 && !s.flags.jfif))
        else s.phase == .error && s.flags.isRgb) ∧
      i.extractLsb' 18 14 = 0 ∧ b = s.bytePos + s.ctl.held ∧ r = s.rowsEmitted ∧
      l.extractLsb' 0 8 = s.lastMarker ∧ l.getLsbD 8 = s.lastMarkerValid ∧ l.extractLsb' 9 23 = 0 ∧
      p = (if s.cfg.strictBaselineSpecEnd then 0x1449 else 0x449)) ∧
  (∀ (s : State) (o : BitVec 6), 0x24 ≤ o.toNat → o.toNat % 4 = 0 → s.csrRead o = some 0) ∧
  (∀ (s : State) (o : BitVec 6), o.toNat % 4 ≠ 0 → s.csrRead o = none) ∧
  (∀ (s : State) (w : CsrWrite) (rest : List CsrWrite), s.port.writes = w :: rest → w.offset ≠ 0 → w.offset.toNat % 4 = 0 →
      step s = .next { s with port := { s.port with writes := rest } })

/-- The markers of unsupported processes raise UnsupportedProcess without reading their segment (R223). -/
def Obligations.RefusedProcesses : Prop :=
  (∀ p ∈ [((0xC3 : Byte), Instr.sof3), (0xC5, .sof5), (0xC6, .sof6), (0xC7, .sof7), (0xC9, .sof9), (0xCA, .sof10),
      (0xCB, .sof11), (0xCC, .dac), (0xCD, .sof13), (0xCE, .sof14), (0xCF, .sof15), (0xDE, .dhp), (0xDF, .exp)],
    decodeCode p.1 = .ok p.2 ∧
    ∀ s : State, (s.phase = .header ∨ s.phase = .frame) →
      exec p.2 s = .next { s.unheld with
        errCode := 6, errClass := 3, phase := .error, ctl := { s.unheld.ctl with abortReq := false } })

/-- Every code that is no JPEG marker, 0x00 included, raises UnknownMarker in HEADER and FRAME (42_marker_parser.md R225;
R215; R402). -/
def Obligations.UnknownMarkers : Prop :=
  ∀ (s : State) (c : Byte) (i : Instr), (s.phase = .header ∨ s.phase = .frame) → (c = 0 ∨ resCode c = true) →
    decodeCode c = .ok i →
    (i = .stuff ∨ i = .res c) ∧
      exec i s = .next { s.unheld with
        errCode := 4, errClass := 1, phase := .error, ctl := { s.unheld.ctl with abortReq := false } }

/-- A known marker in the wrong phase raises UnexpectedMarker (R224). -/
def Obligations.MisplacedMarkers : Prop :=
  (∀ (s : State) (i : Instr), s.phase = .header →
      (i = .sos ∨ i = .dnl ∨ i = .eoi ∨ (∃ m, i = .rst m) ∨ i = .soi) →
      exec i s = .next { s.unheld with
        errCode := 5, errClass := 1, phase := .error, ctl := { s.unheld.ctl with abortReq := false } }) ∧
  (∀ (s : State) (i : Instr), s.phase = .frame →
      (i = .sof0 ∨ i = .sof1 ∨ i = .sof2 ∨ (∃ m, i = .rst m) ∨ i = .soi) →
      exec i s = .next { s.unheld with
        errCode := 5, errClass := 1, phase := .error, ctl := { s.unheld.ctl with abortReq := false } })

/-- Where no marker stands: NoSoi at the start, padding skipped between header segments, else ExpectedMarker; a missing byte
holds the step or ends the stream (42_marker_parser.md R213; R214; R216; R240; R212; 20_memory.md R71). That a held step is
one whose state shows only the stall and the bytes it has taken is the model's reading (log 1). -/
def Obligations.MissingMarkers : Prop :=
  (∀ (s : State) (b : Byte) (rest : List Byte), s.OwnTurn → s.cancels = false → s.bits.marker = 0xFF → s.phase = .soi →
      s.port.input = b :: rest → b ≠ 0xFF → step s = .next ((s.consumed 1).errored .noSoi)) ∧
  (∀ (s : State) (b : Byte) (rest : List Byte), s.OwnTurn → s.cancels = false → s.bits.marker = 0xFF →
      (s.phase = .frame ∨ (s.phase = .header ∧ s.ctl.hdrPad = false)) →
      s.port.input = b :: rest → b ≠ 0xFF → step s = .next ((s.consumed 1).errored .expectedMarker)) ∧
  (∀ (s : State) (k : Nat) (c : Byte) (rest : List Byte), s.OwnTurn → s.cancels = false → s.bits.marker = 0xFF →
      s.phase = .soi → s.port.input = markerBytes k c ++ rest → c ≠ 0xFF → c ≠ 0xD8 →
      step s = .next { (s.consumed (k + 2)).errored .noSoi with lastMarker := c, lastMarkerValid := true }) ∧
  (∀ (s : State) (pad : List Byte) (k : Nat) (c : Byte) (rest : List Byte) (i : Instr), s.OwnTurn → s.cancels = false →
      s.bits.marker = 0xFF → s.phase = .header → s.ctl.hdrPad = true → (∀ b ∈ pad, b ≠ 0xFF) →
      s.port.input = pad ++ (markerBytes k c ++ rest) → decodeCode c = .ok i →
      step s = holdFrom s (exec i { s.unheld.consumed (pad.length + (k + 2)) with
        lastMarker := c, lastMarkerValid := true })) ∧
  (∀ s : State, s.OwnTurn → s.cancels = false → s.bits.marker = 0xFF →
      (s.phase = .soi ∨ s.phase = .header ∨ s.phase = .frame) →
      (s.port.input = [] → step s = if s.port.eos then .next (s.errored .endOfStream)
        else .next { s with ctl := { s.ctl with stallIn := true, held := 0 } }) ∧
      (s.port.input = [0xFF] → step s = if s.port.eos then .next ((s.consumed 1).errored .endOfStream)
        else .next { s with ctl := { s.ctl with stallIn := true, held := 1 } }))

/-- SOI opens the header; EOI ends the image: FINISH for a progressive frame, else OUTPUT (42_marker_parser.md R213; R250).
-/
def Obligations.ImageMarkers : Prop :=
  (∀ s : State, s.phase = .soi → exec .soi s = .next { s.unheld with phase := .header }) ∧
  (∀ s : State, s.phase = .frame →
      exec .eoi s = .next { s.unheld with phase := if s.frame.progressive then .finish else .output })

/-- Inside a scan: a due RSTm of any number resynchronises, one after the last MCU is dropped, FF 00 is a data byte, others
are latched (30_encoding.md R112; R180; R247; R313; R310; R317). -/
def Obligations.MarkersInsideScan : Prop :=
  (∀ (s : State) (m : BitVec 3), s.phase = .scan → s.scanDone = true →
      exec (.rst m) s = .next { s.unheld with bits := { s.bits with marker := 0xFF } }) ∧
  (∀ (s : State) (m : BitVec 3), s.phase = .scan → s.scanDone = false → s.todo.toInt ≤ 0 →
      exec (.rst m) s = .next { s.unheld with
        bits := { codeBuffer := 0, codeBits := 0, noMoreBits := false, marker := 0xFF }
        comp := s.comp.map (fun c => { c with dcPred := 0 })
        scan := { s.scan with eobRun := 0 }
        todo := if s.restartInterval = 0 then 0x7FFFFFFF else s.restartInterval.zeroExtend 32 }) ∧
  (∀ s : State, s.phase = .scan → s.bits.count ≤ 24 →
      exec .stuff s = .next { s.unheld with bits := s.bits.append 0xFF }) ∧
  (∀ (s : State) (i : Instr) (w : BitVec 16), s.phase = .scan → encode i = .marker w → i ≠ .stuff →
      ((∃ m, i = .rst m) → s.scanDone = false ∧ 0 < s.todo.toInt) →
      exec i s = .next { s.unheld with bits := { s.bits with marker := w.truncate 8, noMoreBits := true } })

/-- DRI sets restart_interval, in HEADER and in FRAME; a length other than 4 raises BadDriLength (R219). -/
def Obligations.RestartIntervalSet : Prop :=
  (∀ (s : State) (a b : Byte) (rest : List Byte), (s.phase = .header ∨ s.phase = .frame) →
      s.port.input = 0x00 :: 0x04 :: a :: b :: rest →
      exec .dri s = .next { s.afterSegment 4 with restartInterval := a ++ b }) ∧
  (∀ (s : State) (a b : Byte) (rest : List Byte), (s.phase = .header ∨ s.phase = .frame) →
      s.port.input = a :: b :: rest → (a ++ b : BitVec 16) ≠ 4 →
      exec .dri s = .next ((s.consumed 2).errored .badDriLength))

/-- DNL in FRAME is accepted when it confirms the height; both fields are read before either is checked (R249). -/
def Obligations.LineCountConfirmed : Prop :=
  ∀ (s : State) (a b c d : Byte) (rest : List Byte), s.phase = .frame → s.port.input = a :: b :: c :: d :: rest →
    exec .dnl s =
      if (a ++ b : BitVec 16) ≠ 4 then .next ((s.consumed 4).errored .badDnlLength)
      else if (c ++ d : BitVec 16) ≠ s.frame.imgY then .next ((s.consumed 4).errored .badDnlHeight)
      else .next (s.unheld.consumed 4)

/-- DQT stores each definition de-zig-zagged in its table and marks it loaded; other tables are untouched; a wrong precision,
table id or length is refused where it is read (42_marker_parser.md R217; 30_encoding.md R104; R105; R38; R103; 60_exceptions.md
R402; R406). -/
def Obligations.QuantTablesLoaded : Prop :=
  (∀ (s : State) (ds : List QuantDef) (rest : List Byte) (a b : Byte), (s.phase = .header ∨ s.phase = .frame) →
    (a ++ b : BitVec 16).toNat = 2 + (ds.flatMap QuantDef.bytes).length →
    s.port.input = a :: b :: (ds.flatMap QuantDef.bytes ++ rest) →
    ∃ t : State, exec .dqt s = .next t ∧
      t = { s.afterSegment (2 + (ds.flatMap QuantDef.bytes).length) with qt := t.qt, qtLoaded := t.qtLoaded } ∧
      (∀ q : Fin 4, (∀ d ∈ ds, d.id ≠ q) → t.qt.get q = s.qt.get q ∧ t.qtLoaded.get q = s.qtLoaded.get q) ∧
      (∀ (pre post : List QuantDef) (d : QuantDef), ds = pre ++ d :: post → (∀ e ∈ post, e.id ≠ d.id) →
        t.qtLoaded.get d.id = true ∧ ∀ k : Fin 64, (t.qt.get d.id).get (dezigzag k.val) = d.value k)) ∧
  (∀ (s : State) (ds : List QuantDef) (rest : List Byte) (a b q : Byte), (s.phase = .header ∨ s.phase = .frame) →
    let L := (a ++ b : BitVec 16).toNat
    let taken := 2 + (ds.flatMap QuantDef.bytes).length
    let fails (k : Nat) (e : ErrCode) : Prop := ∃ t : State, exec .dqt s = .next t ∧ t.phase = .error ∧ t.errCode = e.code ∧
      t.errClass = e.cls ∧ t.bytePos = s.bytePos + BitVec.ofNat 32 k ∧ t.port.input = s.port.input.drop k
    (s.port.input = a :: b :: rest → L < 2 → fails 2 .badDqtLength) ∧
    (s.port.input = a :: b :: (ds.flatMap QuantDef.bytes ++ q :: rest) → taken < L →
      (1 < q.toNat / 16 → fails (taken + 1) .badDqtType) ∧
      (q.toNat / 16 ≤ 1 → 3 < q.toNat % 16 → fails (taken + 1) .badDqtTable)) ∧
    (∀ (pre : List QuantDef) (d : QuantDef), ds = pre ++ [d] → s.port.input = a :: b :: (ds.flatMap QuantDef.bytes ++ rest) →
      2 + (pre.flatMap QuantDef.bytes).length < L → L < taken → fails taken .badDqtLength))

/-- DHT loads every table it defines, in order, the last definition of a table winning: the symbol values, canonical codes and the
loaded bit, and the fast-AC table of an AC table; other tables are untouched; a wrong table id, sum, code or length is refused where
it is found, the tables defined before it staying loaded (42_marker_parser.md R218; 40_huffman.md R150; R151; R155; R156; R36; R106;
60_exceptions.md R402; R406). -/
def Obligations.HuffmanTableLoaded : Prop :=
  (∀ (s : State) (ds : List HuffDef) (rest : List Byte) (a b : Byte), (s.phase = .header ∨ s.phase = .frame) →
    (∀ d ∈ ds, d.Valid) → (a ++ b : BitVec 16).toNat = 2 + (ds.flatMap HuffDef.bytes).length →
    s.port.input = a :: b :: (ds.flatMap HuffDef.bytes ++ rest) →
    ∃ t : State, exec .dht s = .next t ∧
      t = { s.afterSegment (2 + (ds.flatMap HuffDef.bytes).length) with huff := t.huff, fastAc := t.fastAc } ∧
      (∀ tc th, s.TableAfter ds t tc th) ∧
      (∀ th : Fin 4, let u := { t with unit := { t.unit with th := BitVec.ofNat 2 th.val } }
        (lastDef 1 th ds = none → t.fastAc.get th = s.fastAc.get th) ∧
        (lastDef 1 th ds ≠ none → exec .fastacBuild u = .next u))) ∧
  (∀ (s : State) (ds : List HuffDef) (q : Byte) (counts : Vector Byte 16) (values rest : List Byte) (a b : Byte),
    (s.phase = .header ∨ s.phase = .frame) → (∀ d ∈ ds, d.Valid) →
    let L := (a ++ b : BitVec 16).toNat
    let head := ds.flatMap HuffDef.bytes
    let taken := 2 + head.length
    let tc := Fin.ofNat 2 (q.toNat / 16)
    let th := Fin.ofNat 4 (q.toNat % 16)
    let fails (k : Nat) (e : ErrCode) (tables : State → Prop) : Prop := ∃ t : State, exec .dht s = .next t ∧ t.phase = .error ∧
      t.errCode = e.code ∧ t.errClass = e.cls ∧ t.bytePos = s.bytePos + BitVec.ofNat 32 k ∧
      t.port.input = s.port.input.drop k ∧ tables t
    (s.port.input = a :: b :: rest → L < 2 → fails 2 .badDhtLength (fun t => t.huff = s.huff)) ∧
    (s.port.input = a :: b :: (head ++ q :: rest) → taken < L → (1 < q.toNat / 16 ∨ 3 < q.toNat % 16) →
      fails (taken + 1) .badDhtHeader (fun t => ∀ tc' th', s.TableAfter ds t tc' th')) ∧
    (s.port.input = a :: b :: (head ++ q :: (counts.toList ++ rest)) → taken < L → q.toNat / 16 ≤ 1 → q.toNat % 16 ≤ 3 →
      256 < countSum counts → fails (taken + 17) .badDhtHeader (fun t => ∀ tc' th', s.TableAfter ds t tc' th')) ∧
    (s.port.input = a :: b :: (head ++ q :: (counts.toList ++ (values ++ rest))) → taken < L → q.toNat / 16 ≤ 1 →
      q.toNat % 16 ≤ 3 → countSum counts ≤ 256 → values.length = countSum counts →
      (¬ValidCounts counts → fails (taken + 17 + values.length) .badCodeLengths (fun t =>
        (t.huffAt tc th).loaded = false ∧ ∀ tc' th', ¬(tc' = tc ∧ th' = th) → s.TableAfter ds t tc' th')) ∧
      (ValidCounts counts → L < taken + 17 + values.length → fails (taken + 17 + values.length) .badDhtLength (fun t =>
        ∀ tc' th', s.TableAfter (ds ++ [{ tc := tc, th := th, counts := counts, values := values }]) t tc' th'))))

/-- APPn and COM are skipped; APP0 "JFIF" sets jfif; APP14 "Adobe" captures its transform byte (42_marker_parser.md R220;
R221; R222; 30_encoding.md R110). -/
def Obligations.AppSegments : Prop :=
  (∀ (s : State) (a b : Byte) (payload rest : List Byte), (s.phase = .header ∨ s.phase = .frame) →
      (a ++ b : BitVec 16).toNat = 2 + payload.length → s.port.input = a :: b :: (payload ++ rest) →
      exec .com s = .next (s.afterSegment (2 + payload.length)) ∧
      (∀ n, exec (.appn n) s = .next (s.afterSegment (2 + payload.length))) ∧
      exec .app0 s = .next { s.afterSegment (2 + payload.length) with
        flags := if payload.take 5 = [0x4A, 0x46, 0x49, 0x46, 0x00] then { s.flags with jfif := true } else s.flags } ∧
      exec .app14 s = .next { s.afterSegment (2 + payload.length) with
        flags := if 12 ≤ payload.length ∧ payload.take 6 = [0x41, 0x64, 0x6F, 0x62, 0x65, 0x00]
          then { s.flags with app14Valid := true, app14 := payload.getD 11 0 } else s.flags }) ∧
  (∀ (s : State) (i : Instr) (a b : Byte) (rest : List Byte), (s.phase = .header ∨ s.phase = .frame) →
      (i = .com ∨ (∃ n, i = .appn n) ∨ i = .app0 ∨ i = .app14) → s.port.input = a :: b :: rest →
      (a ++ b : BitVec 16).toNat < 2 → exec i s = .next ((s.consumed 2).errored .badSegmentLength))

/-- SOF0, SOF1 and SOF2 accept every frame the header rules allow and set the frame and component registers from it
(42_marker_parser.md R230; R231; R232; R233; R234; R235; R236; R237; R238; 30_encoding.md R107; R76; R84). -/
def Obligations.FrameHeaderAccepted : Prop :=
  ∀ (s : State) (i : Instr) (p : Bool) (cs : List CompSpec) (y1 y0 x1 x0 : Byte) (rest : List Byte),
    ((i = .sof0 ∧ p = false) ∨ (i = .sof1 ∧ p = false) ∨ (i = .sof2 ∧ p = true)) → s.phase = .header →
    FrameAccepted s.cfg cs (x1 ++ x0 : BitVec 16).toNat (y1 ++ y0 : BitVec 16).toNat p →
    s.port.input = 0x00 :: BitVec.ofNat 8 (8 + 3 * cs.length) :: 0x08 :: y1 :: y0 :: x1 :: x0 ::
      BitVec.ofNat 8 cs.length :: (specBytes cs ++ rest) →
    let x := (x1 ++ x0 : BitVec 16).toNat
    let y := (y1 ++ y0 : BitVec 16).toNat
    let outN : BitVec 3 := if cs.length = 1 then 1 else 3
    ∃ t : State, exec i s = .next t ∧
      t = { s.unheld.consumed (8 + 3 * cs.length) with
        phase := .frame
        frame := { imgX := x1 ++ x0, imgY := y1 ++ y0, imgN := BitVec.ofNat 3 cs.length, progressive := p,
                   hMax := BitVec.ofNat 3 (maxH cs), vMax := BitVec.ofNat 3 (maxV cs),
                   mcuW := BitVec.ofNat 6 (8 * maxH cs), mcuH := BitVec.ofNat 6 (8 * maxV cs),
                   mcuX := BitVec.ofNat 17 (ceilDiv x (8 * maxH cs)), mcuY := BitVec.ofNat 17 (ceilDiv y (8 * maxV cs)),
                   outN := outN }
        ctl := { s.unheld.ctl with geomValid := true }
        comp := t.comp
        planesAllocated := true
        flags := { s.flags with rgbIds := BitVec.ofNat 2 (rgbCount cs) }
        port := { s.port with
          input := rest, events := s.port.events ++ [.geom (x1 ++ x0) (y1 ++ y0) outN 8] } } ∧
      (∀ (k : Fin 4) (c : CompSpec), cs[k.val]? = some c →
        t.comp.get k = { s.comp.get k with
          id := c.id, h := BitVec.ofNat 3 c.h, v := BitVec.ofNat 3 c.v, tq := c.tq.truncate 2
          x := BitVec.ofNat 17 (ceilDiv (x * c.h) (maxH cs)), y := BitVec.ofNat 17 (ceilDiv (y * c.v) (maxV cs))
          w2 := BitVec.ofNat 20 (planeW cs x c), h2 := BitVec.ofNat 20 (planeH cs y c)
          coeffW := if p then BitVec.ofNat 17 (planeW cs x c / 8) else 0
          coeffH := if p then BitVec.ofNat 17 (planeH cs y c / 8) else 0
          plane := [], coef := [] }) ∧
      (∀ k : Fin 4, cs.length ≤ k.val → t.comp.get k = { s.comp.get k with plane := [], coef := [] })

/-- The frame header fields and component specifications are checked in stream order, then the sizes and sampling ratios; an
error leaves byte_pos just after the offending field (42_marker_parser.md R231; R232; R233; R234; R237; 60_exceptions.md R402;
R406). That a nibble or byte out of range is refused whatever its low bits are is the model's reading (log 8, DEDUCED). -/
def Obligations.FrameFieldErrors : Prop :=
  (∀ (s : State) (i : Instr) (l1 l0 p y1 y0 x1 x0 n : Byte) (rest : List Byte), s.phase = .header →
    (i = .sof0 ∨ i = .sof1 ∨ i = .sof2) → s.port.input = l1 :: l0 :: p :: y1 :: y0 :: x1 :: x0 :: n :: rest →
    let L := (l1 ++ l0 : BitVec 16).toNat
    let fails (k : Nat) (e : ErrCode) : Prop := ∃ t : State, exec i s = .next t ∧ t.phase = .error ∧ t.errCode = e.code ∧
      t.errClass = e.cls ∧ t.bytePos = s.bytePos + BitVec.ofNat 32 k ∧ t.port.input = s.port.input.drop k ∧
      t.comp = s.comp ∧ t.port.events = s.port.events
    (L < 11 → fails 2 .badSofLength) ∧
    (11 ≤ L → p ≠ 8 → fails 3 .badPrecision) ∧
    (11 ≤ L → p = 8 → (y1 ++ y0 : BitVec 16) = 0 → fails 5 .zeroHeight) ∧
    (11 ≤ L → p = 8 → (y1 ++ y0 : BitVec 16) ≠ 0 → (x1 ++ x0 : BitVec 16) = 0 → fails 7 .zeroWidth) ∧
    (11 ≤ L → p = 8 → (y1 ++ y0 : BitVec 16) ≠ 0 → (x1 ++ x0 : BitVec 16) ≠ 0 → n ≠ 1 → n ≠ 3 → n ≠ 4 →
      fails 8 .badComponentCount) ∧
    (11 ≤ L → p = 8 → (y1 ++ y0 : BitVec 16) ≠ 0 → (x1 ++ x0 : BitVec 16) ≠ 0 → (n = 1 ∨ n = 3 ∨ n = 4) →
      L ≠ 8 + 3 * n.toNat → fails 8 .badSofLength)) ∧
  (∀ (s : State) (i : Instr) (p : Bool) (cs : List CompSpec) (y1 y0 x1 x0 : Byte) (n : Nat) (tail : List Byte),
    ((i = .sof0 ∧ p = false) ∨ (i = .sof1 ∧ p = false) ∨ (i = .sof2 ∧ p = true)) → s.phase = .header →
    (n = 1 ∨ n = 3 ∨ n = 4) → (y1 ++ y0 : BitVec 16) ≠ 0 → (x1 ++ x0 : BitVec 16) ≠ 0 → (∀ c ∈ cs, c.Legal) →
    s.port.input = 0x00 :: BitVec.ofNat 8 (8 + 3 * n) :: 0x08 :: y1 :: y0 :: x1 :: x0 :: BitVec.ofNat 8 n ::
      (specBytes cs ++ tail) →
    let x := (x1 ++ x0 : BitVec 16).toNat
    let y := (y1 ++ y0 : BitVec 16).toNat
    let fails (k : Nat) (e : ErrCode) : Prop := ∃ t : State, exec i s = .next t ∧ t.phase = .error ∧ t.errCode = e.code ∧
      t.errClass = e.cls ∧ t.bytePos = s.bytePos + BitVec.ofNat 32 k ∧ t.port.input = s.port.input.drop k ∧
      t.planesAllocated = s.planesAllocated ∧ t.port.events = s.port.events
    (∀ (c : CompSpec) (rest : List Byte), cs.length < n → tail = c.id :: c.hv :: c.tq :: rest →
      ((c.h = 0 ∨ 4 < c.h) → fails (10 + 3 * cs.length) .badH) ∧
      (1 ≤ c.h → c.h ≤ 4 → (c.v = 0 ∨ 4 < c.v) → fails (10 + 3 * cs.length) .badV) ∧
      (1 ≤ c.h → c.h ≤ 4 → 1 ≤ c.v → c.v ≤ 4 → 3 < c.tq.toNat → fails (11 + 3 * cs.length) .badTq)) ∧
    (cs.length = n →
      (s.cfg.maxAllocBytes < x * y * n → fails (8 + 3 * n) .sizeOverflow) ∧
      (x * y * n ≤ s.cfg.maxAllocBytes → ¬IntegerRatios cs → fails (8 + 3 * n) .nonIntegerSampling) ∧
      (x * y * n ≤ s.cfg.maxAllocBytes → IntegerRatios cs → (∃ c ∈ cs, s.cfg.maxAllocBytes < planeBytes cs x y p c) →
        fails (8 + 3 * n) .sizeOverflow) ∧
      (x * y * n ≤ s.cfg.maxAllocBytes → IntegerRatios cs → (∀ c ∈ cs, planeBytes cs x y p c ≤ s.cfg.maxAllocBytes) →
        s.cfg.planeMemBytes < (cs.map (planeBytes cs x y p)).sum → fails (8 + 3 * n) .allocFailed)))

/-- SOS accepts every scan header its rules allow, a component listed twice among them, binds the tables and starts the scan from
a reset bit machine; every other is refused where it is found (42_marker_parser.md R241; R242; R243; R244; R245; R246;
43_block_decoder.md R271; 44_restart_fsm.md R310; 30_encoding.md R108; 60_exceptions.md R402; R406). That a count or a nibble out
of range is refused whatever its low bits are is the model's reading (log 8, DEDUCED). -/
def Obligations.StartOfScanAccepted : Prop :=
  (∀ (s : State) (bs : List (Fin 4 × Byte)) (ss se a : Byte) (rest : List Byte), s.phase = .frame →
    1 ≤ bs.length → bs.length ≤ 4 → bs.length ≤ s.frame.imgN.toNat → (∀ p ∈ bs, s.LegalBinding p) →
    s.LegalParameters ss se a → (∀ p ∈ bs, s.HuffmanPresent ss a (lastBinding p.1 bs) ∧ s.QuantPresent p.1) →
    s.port.input = 0x00 :: BitVec.ofNat 8 (6 + 2 * bs.length) :: BitVec.ofNat 8 bs.length ::
      (s.bindingBytes bs ++ (ss :: se :: a :: rest)) →
    ∃ t : State, exec .sos s = .next t ∧
      t = { s.unheld.consumed (6 + 2 * bs.length) with
        phase := .scan
        bits := { codeBuffer := 0, codeBits := 0, noMoreBits := false, marker := 0xFF }
        todo := if s.restartInterval = 0 then 0x7FFFFFFF else s.restartInterval.zeroExtend 32
        pos := { s.pos with mcuI := 0, mcuJ := 0, sk := 0, bcol := 0, brow := 0 }
        scan := { scanN := BitVec.ofNat 3 bs.length, order := t.scan.order, specStart := ss
                  specEnd := if s.frame.progressive then se else 63
                  succHigh := a.extractLsb' 4 4, succLow := a.extractLsb' 0 4, eobRun := 0 }
        comp := t.comp } ∧
      (∀ j : Fin 4, t.scan.order.get j =
        match bs[j.val]? with
        | some p => BitVec.ofNat 2 p.1.val
        | none => s.scan.order.get j) ∧
      (∀ c : Fin 4, t.comp.get c =
        if c ∈ bs.map Prod.fst then { s.comp.get c with
          hd := BitVec.ofNat 2 ((lastBinding c bs).toNat / 16), ha := BitVec.ofNat 2 ((lastBinding c bs).toNat % 16), dcPred := 0 }
        else { s.comp.get c with dcPred := 0 })) ∧
  (∀ (s : State) (l1 l0 n : Byte) (bs : List (Fin 4 × Byte)) (tail : List Byte), s.phase = .frame →
    s.port.input = l1 :: l0 :: n :: (s.bindingBytes bs ++ tail) → (∀ p ∈ bs, s.LegalBinding p) →
    let L := (l1 ++ l0 : BitVec 16).toNat
    let counted : Prop := 1 ≤ n.toNat ∧ n.toNat ≤ 4 ∧ n.toNat ≤ s.frame.imgN.toNat
    let k := 3 + 2 * bs.length
    let fails (k : Nat) (e : ErrCode) : Prop := ∃ t : State, exec .sos s = .next t ∧ t.phase = .error ∧ t.errCode = e.code ∧
      t.errClass = e.cls ∧ t.bytePos = s.bytePos + BitVec.ofNat 32 k ∧ t.port.input = s.port.input.drop k ∧
      t.bits = s.bits ∧ t.todo = s.todo
    (¬counted → fails 3 .badSosComponentCount) ∧
    (counted → L ≠ 6 + 2 * n.toNat → fails 3 .badSosLength) ∧
    (∀ (id q : Byte) (rest : List Byte), counted → L = 6 + 2 * n.toNat → bs.length < n.toNat → tail = id :: q :: rest →
      (s.findComp id = none → fails (k + 2) .badSosComponentId) ∧
      (s.findComp id ≠ none → 3 < q.toNat / 16 → fails (k + 2) .badDcTableIndex) ∧
      (s.findComp id ≠ none → q.toNat / 16 ≤ 3 → 3 < q.toNat % 16 → fails (k + 2) .badAcTableIndex)) ∧
    (∀ (ss se a : Byte) (rest : List Byte), counted → L = 6 + 2 * n.toNat → bs.length = n.toNat →
      tail = ss :: se :: a :: rest →
      (¬s.LegalParameters ss se a → fails (k + 3) .badSos) ∧
      (∀ (pre post : List (Fin 4 × Byte)) (p : Fin 4 × Byte), s.LegalParameters ss se a → bs = pre ++ p :: post →
        (∀ q ∈ pre, s.HuffmanPresent ss a (lastBinding q.1 bs) ∧ s.QuantPresent q.1) →
        (¬s.HuffmanPresent ss a (lastBinding p.1 bs) → fails (k + 3) .missingHuffmanTable) ∧
        (s.HuffmanPresent ss a (lastBinding p.1 bs) → ¬s.QuantPresent p.1 → fails (k + 3) .missingQuantTable))))

/-- What a segment marker leaves unchanged, whatever it answers: each writes only its own tables or registers
(42_marker_parser.md R217; R218; R219; R220; R230; R241; R249; R410; R411). -/
def Obligations.SegmentFrames : Prop :=
  (∀ (s t : State) (i : Instr),
      (i = .dqt ∨ i = .dht ∨ i = .dri ∨ i = .dnl ∨ i = .app0 ∨ i = .app14 ∨ i = .com ∨ ∃ n, i = .appn n) →
      exec i s = .next t →
      t = { s with
        phase := t.phase, errCode := t.errCode, errClass := t.errClass, ctl := t.ctl, bytePos := t.bytePos
        bits := { s.bits with marker := t.bits.marker, noMoreBits := t.bits.noMoreBits }
        port := { s.port with input := t.port.input }, qt := t.qt, qtLoaded := t.qtLoaded, huff := t.huff
        fastAc := t.fastAc, restartInterval := t.restartInterval, flags := t.flags } ∧
      (i ≠ .dqt → t.qt = s.qt ∧ t.qtLoaded = s.qtLoaded) ∧ (i ≠ .dht → t.huff = s.huff ∧ t.fastAc = s.fastAc) ∧
      (i ≠ .dri → t.restartInterval = s.restartInterval) ∧ (i ≠ .app0 → i ≠ .app14 → t.flags = s.flags) ∧
      (∀ c y x, t.sample c y x = s.sample c y x) ∧ (∀ c b z, t.coefficient c b z = s.coefficient c b z)) ∧
  (∀ (s t : State) (i : Instr), (i = .sof0 ∨ i = .sof1 ∨ i = .sof2) → exec i s = .next t →
      t = { s with
        phase := t.phase, errCode := t.errCode, errClass := t.errClass, ctl := t.ctl, bytePos := t.bytePos
        bits := { s.bits with marker := t.bits.marker, noMoreBits := t.bits.noMoreBits }
        port := { s.port with input := t.port.input, events := t.port.events }, frame := t.frame, comp := t.comp
        planesAllocated := t.planesAllocated, flags := { s.flags with rgbIds := t.flags.rgbIds } }) ∧
  (∀ (s t : State), exec .sos s = .next t →
      (t.bits = { s.bits with marker := t.bits.marker, noMoreBits := t.bits.noMoreBits } ∨
        t.bits = { codeBuffer := 0, codeBits := 0, noMoreBits := false, marker := 0xFF }) ∧
      t = { s with
        phase := t.phase, errCode := t.errCode, errClass := t.errClass, ctl := t.ctl, bytePos := t.bytePos, bits := t.bits
        port := { s.port with input := t.port.input }, scan := t.scan, todo := t.todo, pos := t.pos, comp := t.comp } ∧
      (∀ c, t.comp.get c = { s.comp.get c with
        hd := (t.comp.get c).hd, ha := (t.comp.get c).ha, dcPred := (t.comp.get c).dcPred }) ∧
      (∀ c y x, t.sample c y x = s.sample c y x) ∧ (∀ c b z, t.coefficient c b z = s.coefficient c b z))

/-- Appending a byte puts its bits just below the valid bits; consuming n bits drops the top n; both keep the accumulator
sound (41_bit_entropy.md R180; R181; R190; 20_memory.md R75). -/
def Obligations.AppendedAndConsumedBits : Prop :=
  (∀ (m : BitMachine) (b : Byte), m.Ok → m.count ≤ 24 →
      (m.append b).Ok ∧ (m.append b).count = m.count + 8 ∧ (m.append b).top m.count.toNat = m.top m.count.toNat ∧
      (m.append b).top (m.count.toNat + 8) = 256 * m.top m.count.toNat + b.toNat ∧
      (m.append b).marker = m.marker ∧ (m.append b).noMoreBits = m.noMoreBits) ∧
  (∀ (m : BitMachine) (n : Nat), m.Ok → (n : Int) ≤ m.count →
      (m.consume n).Ok ∧ (m.consume n).count = m.count - n ∧
      (∀ k, n + k ≤ 32 → (m.consume n).top k = m.top (n + k) % 2 ^ k) ∧
      (m.consume n).marker = m.marker ∧ (m.consume n).noMoreBits = m.noMoreBits)

/-- FILL appends de-stuffed data bytes until more than 24 bits are there, stops at a marker and latches it, and zero-fills
after one (41_bit_entropy.md R180; 30_encoding.md R112). -/
def Obligations.FillEffect : Prop :=
  (∀ s : State, 0 ≤ s.bits.count → s.bits.count ≤ 24 → s.bits.noMoreBits = true →
      exec .fill s = .next { s.unheld with
        bits := { s.bits with codeBits := s.bits.codeBits + BitVec.ofNat 8 (8 * ((24 - s.bits.count.toNat) / 8 + 1)) } }) ∧
  (∀ (s : State) (ds : List (Byte × Nat)) (rest : List Byte), 0 ≤ s.bits.count → s.bits.count ≤ 24 →
      s.bits.noMoreBits = false → ds.length = (24 - s.bits.count.toNat) / 8 + 1 → s.port.input = ecsBytes ds ++ rest →
      exec .fill s = .next { s.unheld.consumed (ecsBytes ds).length with bits := s.bits.appendAll ds }) ∧
  (∀ (s : State) (ds : List (Byte × Nat)) (k : Nat) (m : Byte) (rest : List Byte), 0 ≤ s.bits.count → s.bits.count ≤ 24 →
      s.bits.noMoreBits = false → ds.length ≤ (24 - s.bits.count.toNat) / 8 → m ≠ 0 → m ≠ 0xFF →
      s.port.input = ecsBytes ds ++ (markerBytes k m ++ rest) →
      exec .fill s = .next { s.unheld.consumed ((ecsBytes ds).length + (k + 2)) with
        bits := { s.bits.appendAll ds with marker := m, noMoreBits := true } })

/-- GET_BITS, GET_BIT and RECEIVE_EXTEND take the next bits when enough are buffered, the last with the sign rule
(41_bit_entropy.md R186; R187; R188; R191; R181). Counts above those of R186 and R188 (14 and 15) rest on the model's choice that
the same rule runs for them (log 21, DESIGN CHOICE). -/
def Obligations.RawBitsTaken : Prop :=
  (∀ (s : State) (n : Nat), s.unit.n.toNat = n → 1 ≤ n → (n : Int) ≤ s.bits.count → s.bits.count ≤ 32 →
      let v := s.bits.codeBuffer.toNat / 2 ^ (32 - n)
      let rest : BitMachine :=
        { s.bits with codeBuffer := s.bits.codeBuffer <<< n, codeBits := s.bits.codeBits - BitVec.ofNat 8 n }
      exec .getBits s = .next { s.unheld with bits := rest, unit := { s.unit with result := BitVec.ofNat 32 v } } ∧
      exec .receiveExtend s = .next { s.unheld with
        bits := rest
        unit := { s.unit with
          result := BitVec.ofInt 32 (if 2 ^ (n - 1) ≤ v then (v : Int) else (v : Int) - (2 ^ n - 1)) } }) ∧
  (∀ s : State, 1 ≤ s.bits.count → s.bits.count ≤ 32 →
      exec .getBit s = .next { s.unheld with
        bits := { s.bits with codeBuffer := s.bits.codeBuffer <<< 1, codeBits := s.bits.codeBits - 1 }
        unit := { s.unit with result := if s.bits.codeBuffer.getLsbD 31 then 1 else 0 } })

/-- With fewer bits than asked for before a marker, the data bytes before it included, the raw-bit operations return 0 and
consume no bit; the marker is latched (41_bit_entropy.md R186; R187; R188; R180). Counts above those of R186 and R188 (14 and 15)
rest on the model's choice that the same rule runs for them (log 21, DESIGN CHOICE). -/
def Obligations.ShortRawBits : Prop :=
  ∀ (s : State) (i : Instr) (n : Nat) (ds : List (Byte × Nat)) (k : Nat) (m : Byte) (rest : List Byte),
    0 ≤ s.bits.count → s.bits.count ≤ 24 →
    ((i = .getBits ∧ n = s.unit.n.toNat) ∨ (i = .receiveExtend ∧ n = s.unit.n.toNat) ∨ (i = .getBit ∧ n = 1)) →
    s.bits.count + 8 * ds.length < n → ds.length ≤ (24 - s.bits.count.toNat) / 8 →
    s.bits.noMoreBits = false → m ≠ 0 → m ≠ 0xFF → s.port.input = ecsBytes ds ++ (markerBytes k m ++ rest) →
    exec i s = .next { s.unheld.consumed ((ecsBytes ds).length + (k + 2)) with
      bits := { s.bits.appendAll ds with marker := m, noMoreBits := true }, unit := { s.unit with result := 0 } }

/-- MAG gives the value of an n-bit magnitude field; the values of category n are those of n-bit magnitude, each from one
field (30_encoding.md R115; 41_bit_entropy.md R188; R191). -/
def Obligations.MagnitudeValues : Prop :=
  (∀ (n : BitVec 4) (v : BitVec 15) (s : State), n ≠ 0 → v.toNat < 2 ^ n.toNat →
      exec (.mag n v) s = .next { s.unheld with unit := { s.unit with
        result := BitVec.ofInt 32 (if 2 ^ (n.toNat - 1) ≤ v.toNat then (v.toNat : Int) else (v.toNat : Int) - (2 ^ n.toNat - 1)) } }) ∧
  (∀ n v : Nat, 1 ≤ n → v < 2 ^ n → 2 ^ (n - 1) ≤ (magnitude n v).natAbs ∧ (magnitude n v).natAbs < 2 ^ n) ∧
  (∀ n v w : Nat, 1 ≤ n → v < 2 ^ n → w < 2 ^ n → magnitude n v = magnitude n w → v = w)

/-- DECODE_HUFF fills the bit machine to 16 bits and returns the symbol the fast table resolves, else the one the length search
finds; a code longer than the bits there, of no length or of no index is BadHuffmanCode (41_bit_entropy.md R182; R183; R184; R185;
R180). -/
def Obligations.HuffmanSymbolDecoded : Prop :=
  ∀ s f : State, s.FilledTo 16 f → s.bits.count ≤ 32 →
    let tc := idx1 s.unit.tc
    let th := idx2 s.unit.th
    let T := s.huffAt tc th
    let gives (n : Nat) (v : Byte) : Prop := exec .decodeHuff s = .next { f with
      bits := f.bits.consume n, unit := { f.unit with result := v.zeroExtend 32 } }
    let fails : Prop := exec .decodeHuff s = .next (f.takeError .badHuffmanCode)
    T.loaded = true →
    (∀ (v : Byte) (n : Nat), f.NextSymbol tc th v n →
      ((n : Int) ≤ f.bits.count → gives n v) ∧ (f.bits.count < n → fails)) ∧
    (at? T.fast (f.bits.top 9) 255 = 255 →
      (∀ k : Nat, 9 ≤ k → k ≤ 16 → (∀ l, 9 ≤ l → l < k → (at? T.maxcode (l - 1) 0).toNat ≤ f.bits.top 16) →
        f.bits.top 16 < (at? T.maxcode (k - 1) 0).toNat →
        let i := (f.bits.top k : Int) + (at? T.delta (k - 1) 0).toInt
        (f.bits.count < k → fails) ∧
        ((k : Int) ≤ f.bits.count → (i < 0 ∨ 255 < i) → fails) ∧
        ((k : Int) ≤ f.bits.count → 0 ≤ i → i ≤ 255 → gives k (at? T.values i.toNat 0))) ∧
      ((∀ l, 9 ≤ l → l ≤ 16 → (at? T.maxcode (l - 1) 0).toNat ≤ f.bits.top 16) → fails))

/-- HUF_BUILD gives consecutive canonical codes, delta, maxcode and the loaded bit, and touches no other table (40_huffman.md
R150; R151; R152; R156). That it does so on a table already loaded, of which R156 says nothing, is the model's choice (log 33, DESIGN
CHOICE). -/
def Obligations.CanonicalTableBuilt : Prop :=
  ∀ (s : State), ValidCounts s.unit.counts →
    let tc := idx1 s.unit.tc
    let th := idx2 s.unit.th
    let counts := s.unit.counts
    ∃ T : HuffTable, exec .hufBuild s = .next (s.unheld.setHuff tc th T) ∧
      T.loaded = true ∧ T.nsym.toNat = countSum counts ∧ T.values = (s.huffAt tc th).values ∧ T.Canonical counts ∧
      at? T.size (countSum counts) 0 = 0 ∧ at? T.maxcode 16 0 = 0xFFFFFFFF ∧
      (∀ l < 16, (at? T.delta l 0).toInt = (firstIndex counts l : Int) - firstCode counts l ∧
        (at? T.maxcode l 0).toNat = (firstCode counts l + countAt counts l) * 2 ^ (15 - l))

/-- The fast table resolves a 9-bit string to symbol i exactly when the code of i has at most 9 bits and begins the string
(R158). -/
def Obligations.FastTableLaw : Prop :=
  ∀ (s t : State), ValidCounts s.unit.counts → exec .hufBuild s = .next t →
    let T := t.huffAt (idx1 s.unit.tc) (idx2 s.unit.th)
    let n := countSum s.unit.counts
    ∀ c : Nat, c < 512 →
      (∀ i : Nat, i < 255 → i < n →
        ((at? T.fast c 0).toNat = i ↔
          (at? T.size i 0).toNat ≤ 9 ∧ (at? T.code i 0).toNat = c / 2 ^ (9 - (at? T.size i 0).toNat))) ∧
      ((at? T.fast c 0).toNat = 255 ∨ (at? T.fast c 0).toNat < n)

/-- Decoding a code of a built table returns its symbol and consumes exactly the code (40_huffman.md R157; R153;
41_bit_entropy.md R182; R183; R184; R185). -/
def Obligations.CanonicalRoundTrip : Prop :=
  ∀ (s t : State) (i : Nat) (b : BitMachine), ValidCounts s.unit.counts → countAt s.unit.counts 7 ≠ 256 →
    exec .hufBuild s = .next t → i < countSum s.unit.counts → 16 ≤ b.count → b.count ≤ 32 →
    let T := t.huffAt (idx1 s.unit.tc) (idx2 s.unit.th)
    b.top (at? T.size i 0).toNat = (at? T.code i 0).toNat →
    exec .decodeHuff { t with bits := b } = .next { t with
      bits := b.consume (at? T.size i 0).toNat
      unit := { t.unit with result := (at? T.values i 0).zeroExtend 32 } }

/-- HUF_BUILD raises BadCodeLengths for counts that overflow a length, leaving the loaded bit and every other table as they
were (40_huffman.md R151; R156; R402). That the bit of a table already loaded stays 1 is the model's choice (log 33, DESIGN
CHOICE). -/
def Obligations.CodeLengthsRefused : Prop :=
  ∀ (s : State), countSum s.unit.counts ≤ 256 → ¬ValidCounts s.unit.counts →
    ∃ T : HuffTable, exec .hufBuild s =
        .next ((s.unheld.setHuff (idx1 s.unit.tc) (idx2 s.unit.th) T).takeError .badCodeLengths) ∧
      T.loaded = (s.huffAt (idx1 s.unit.tc) (idx2 s.unit.th)).loaded ∧
      T.values = (s.huffAt (idx1 s.unit.tc) (idx2 s.unit.th)).values

/-- FASTAC_BUILD gives an entry to every 9-bit string that holds a whole coefficient, and 0 to every other (40_huffman.md
R154; R155; 30_encoding.md R122). -/
def Obligations.FastAcEntries : Prop :=
  ∀ (s : State), (s.huffAt 1 (idx2 s.unit.th)).loaded = true →
    let T := s.huffAt 1 (idx2 s.unit.th)
    ∃ F : Vector (BitVec 16) 512, exec .fastacBuild s = .next (s.unheld.setFastAc (idx2 s.unit.th) F) ∧
      ∀ c : Fin 512,
        let f := (T.fast.get c).toNat
        let rs := (at? T.values f 0).toNat
        let mag := rs % 16
        let len := (at? T.size f 0).toNat
        let k := (c.val * 2 ^ len % 512) / 2 ^ (9 - mag)
        let value : Int := if 2 ^ (mag - 1) ≤ k then (k : Int) else (k : Int) - (2 ^ mag - 1)
        if f < 255 ∧ mag ≠ 0 ∧ len + mag ≤ 9 ∧ -128 ≤ value ∧ value ≤ 127 then
          fastValue (F.get c) = value ∧ fastRun (F.get c) = rs / 16 ∧ fastLen (F.get c) = len + mag
        else F.get c = 0

/-- GET_MARKER gives the latched marker, or the one at the head of the stream, or NONE; SEEK_MARKER finds the next marker
(42_marker_parser.md R212; R248; 10_state.md R34). -/
def Obligations.MarkersRead : Prop :=
  (∀ s : State, s.bits.marker ≠ 0xFF →
      exec .getMarker s = .next { s.unheld with
        bits := { s.bits with marker := 0xFF }, lastMarker := s.bits.marker, lastMarkerValid := true
        unit := { s.unit with result := s.bits.marker.zeroExtend 32 } }) ∧
  (∀ (s : State) (k : Nat) (c : Byte) (rest : List Byte), s.bits.marker = 0xFF → c ≠ 0xFF →
      s.port.input = markerBytes k c ++ rest →
      exec .getMarker s = .next { s.unheld.consumed (k + 2) with
        lastMarker := c, lastMarkerValid := true, unit := { s.unit with result := c.zeroExtend 32 } }) ∧
  (∀ (s : State) (b : Byte) (rest : List Byte), s.bits.marker = 0xFF → b ≠ 0xFF → s.port.input = b :: rest →
      exec .getMarker s = .next { s.unheld.consumed 1 with unit := { s.unit with result := 0xFF } }) ∧
  (∀ (s : State) (ds : List (Byte × Nat)) (k : Nat) (m : Byte) (rest : List Byte), m ≠ 0 → m ≠ 0xFF →
      s.port.input = ecsBytes ds ++ (markerBytes k m ++ rest) →
      exec .seekMarker s = .next { s.unheld.consumed ((ecsBytes ds).length + (k + 2)) with
        bits := { s.bits with marker := m } })

/-- DC_DIFF adds the coded difference to the predictor and stores the DC coefficient: dequantised, or shifted in a first scan
(43_block_decoder.md R274; R275; R276; R285; 30_encoding.md R116; 10_state.md R41). -/
def Obligations.DcDifferenceTaken : Prop :=
  ∀ (s : State) (c : BitVec 4), (c.toNat : Int) ≤ s.bits.count → s.bits.count ≤ 32 →
    let n := s.blockComp
    let v := s.bits.codeBuffer.toNat / 2 ^ (32 - c.toNat)
    let diff : Int := if c = 0 then 0 else if 2 ^ (c.toNat - 1) ≤ v then (v : Int) else (v : Int) - (2 ^ c.toNat - 1)
    let dc := BitVec.ofInt 32 ((s.comp.get n).dcPred.toInt + diff)
    (s.frame.progressive = false → s.qtLoaded.get s.qTable = true →
      exec (.dcDiff c) s = .next { s.unheld.setComp n { s.comp.get n with dcPred := dc } with
        bits := s.bits.consume c.toNat
        blk := { s.blk with
          data := (Vector.replicate 64 0).set 0 (BitVec.ofInt 16 (dc.toInt * ((s.qt.get s.qTable).get 0).toNat))
          k := 1, done := false } }) ∧
    (s.frame.progressive = true → s.inCoef n s.blockNum 0 = true →
      ∃ t : State, exec (.dcDiff c) s = .next t ∧
        t = { s.unheld.setComp n { s.comp.get n with dcPred := dc, coef := (t.comp.get n).coef } with
          bits := s.bits.consume c.toNat } ∧
        t.coefficient n s.blockNum 0 = some (BitVec.ofInt 16 (dc.toInt * 2 ^ s.scan.succLow.toNat)) ∧
        (∀ m b z, z < 64 → ¬(m = n ∧ b = s.blockNum ∧ z = 0) → t.coefficient m b z = s.coefficient m b z))

/-- AC_COEF skips its run and stores a dequantised coefficient; AC_ZRL skips 16; AC_EOB ends the block (43_block_decoder.md
R274; 30_encoding.md R117; R104; R115; 10_state.md R41). -/
def Obligations.SequentialAcSymbols : Prop :=
  (∀ (s : State) (r c : BitVec 4), c ≠ 0 → (c.toNat : Int) ≤ s.bits.count → s.bits.count ≤ 32 →
      s.qtLoaded.get s.qTable = true →
      let z := dezigzag (s.blk.k + r.toNat)
      let v := s.bits.codeBuffer.toNat / 2 ^ (32 - c.toNat)
      let value : Int := if 2 ^ (c.toNat - 1) ≤ v then (v : Int) else (v : Int) - (2 ^ c.toNat - 1)
      exec (.acCoef r c) s = .next { s.unheld with
        bits := s.bits.consume c.toNat
        blk := { s.blk with
          data := s.blk.data.set z.val (BitVec.ofInt 16 (value * ((s.qt.get s.qTable).get z).toNat)) z.isLt
          k := s.blk.k + r.toNat + 1 } }) ∧
  (∀ s : State, exec .acZrl s = .next { s.unheld with blk := { s.blk with k := s.blk.k + 16 } }) ∧
  (∀ (s : State) (r : BitVec 4), exec (.acEob r) s = .next { s.unheld with blk := { s.blk with done := true } })

/-- ACP_COEF writes one shifted coefficient of the block; ACP_ZRL skips 16; ACP_EOBRUN sets eob_run to 2^r + bits - 1
(43_block_decoder.md R278; R279; R285; 30_encoding.md R118; R104; R115). -/
def Obligations.ProgressiveFirstSymbols : Prop :=
  (∀ (s : State) (r c : BitVec 4), c ≠ 0 → (c.toNat : Int) ≤ s.bits.count → s.bits.count ≤ 32 →
      let z := dezigzag (s.blk.k + r.toNat)
      let n := s.blockComp
      let v := s.bits.codeBuffer.toNat / 2 ^ (32 - c.toNat)
      let value : Int := if 2 ^ (c.toNat - 1) ≤ v then (v : Int) else (v : Int) - (2 ^ c.toNat - 1)
      s.inCoef n s.blockNum z.val = true →
      ∃ t : State, exec (.acpCoef r c) s = .next t ∧
        t = { s.unheld.setComp n { s.comp.get n with coef := (t.comp.get n).coef } with
          bits := s.bits.consume c.toNat, blk := { s.blk with k := s.blk.k + r.toNat + 1 } } ∧
        t.coefficient n s.blockNum z.val = some (BitVec.ofInt 16 (value * 2 ^ s.scan.succLow.toNat)) ∧
        (∀ m b y, y < 64 → ¬(m = n ∧ b = s.blockNum ∧ y = z.val) → t.coefficient m b y = s.coefficient m b y)) ∧
  (∀ s : State, exec .acpZrl s = .next { s.unheld with blk := { s.blk with k := s.blk.k + 16 } }) ∧
  (∀ (s : State) (r : BitVec 4), (r.toNat : Int) ≤ s.bits.count → s.bits.count ≤ 32 →
      exec (.acpEobrun r) s = .next { s.unheld with
        bits := s.bits.consume r.toNat
        scan := { s.scan with
          eobRun := BitVec.ofNat 32 (2 ^ r.toNat + s.bits.codeBuffer.toNat / 2 ^ (32 - r.toNat) - 1) }
        blk := { s.blk with done := true } })

/-- In a refinement scan ACR_COEF places +-2^Al at the zero coefficient after its run, ACR_ZRL passes 16 zero ones, ACR_EOBRUN the
band; each nonzero coefficient passed takes a correction bit (43_block_decoder.md R280; R281; R282; R283; R285; 30_encoding.md R119;
R104). -/
def Obligations.RefinementSymbols : Prop :=
  ∀ (s : State) (co : Nat → BitVec 16),
    let n := s.blockComp
    let k := s.blk.k
    let last := s.scan.specEnd.toNat
    last ≤ 63 → s.BandIs co k last → s.bits.count ≤ 32 →
    (∀ (r : BitVec 4) (e : Nat), StopsAt co k last r.toNat e → ((1 + nonzeros co k e : Nat) : Int) ≤ s.bits.count →
      ∃ t : State, exec (.acrCoef r) s = .next t ∧
        t = { s.unheld.setComp n { s.comp.get n with coef := (t.comp.get n).coef } with
          bits := s.bits.consume (1 + nonzeros co k e), blk := { s.blk with k := max k (min e last + 1) } } ∧
        s.Refined co k last e 1 (BitVec.ofInt 16 (if s.bits.codeBuffer.getLsbD 31 then 2 ^ s.scan.succLow.toNat
          else -(2 ^ s.scan.succLow.toNat))) t) ∧
    (∀ e : Nat, StopsAt co k last 15 e → (nonzeros co k e : Int) ≤ s.bits.count →
      ∃ t : State, exec .acrZrl s = .next t ∧
        t = { s.unheld.setComp n { s.comp.get n with coef := (t.comp.get n).coef } with
          bits := s.bits.consume (nonzeros co k e), blk := { s.blk with k := max k (min e last + 1) } } ∧
        s.Refined co k last e 0 0 t) ∧
    (∀ r : BitVec 4, ((r.toNat + nonzeros co k (last + 1) : Nat) : Int) ≤ s.bits.count →
      ∃ t : State, exec (.acrEobrun r) s = .next t ∧
        t = { s.unheld.setComp n { s.comp.get n with coef := (t.comp.get n).coef } with
          bits := s.bits.consume (r.toNat + nonzeros co k (last + 1))
          scan := { s.scan with
            eobRun := BitVec.ofNat 32 (2 ^ r.toNat - 1 + s.bits.codeBuffer.toNat / 2 ^ (32 - r.toNat)) }
          blk := { s.blk with k := max k (last + 1) } } ∧
        s.Refined co k last (last + 1) r.toNat 0 t)

/-- DC_REFINE_BIT adds 2^Al to the DC coefficient for a 1 and reads it for a 0; ACR_BAD is BadHuffmanCode
(43_block_decoder.md R277; R281; R285; 30_encoding.md R119; R120; R78). -/
def Obligations.DcRefinementAndBadSymbols : Prop :=
  (∀ (s : State) (b : Bool) (p : BitVec 16), s.coefficient s.blockComp s.blockNum 0 = some p →
      ∃ t : State, exec (.dcRefineBit b) s = .next t ∧
        t = s.unheld.setComp s.blockComp { s.comp.get s.blockComp with coef := (t.comp.get s.blockComp).coef } ∧
        (∀ m b' z, z < 64 → t.coefficient m b' z =
          if b = true ∧ m = s.blockComp ∧ b' = s.blockNum ∧ z = 0 then
            some (BitVec.ofInt 16 (p.toInt + 2 ^ s.scan.succLow.toNat))
          else s.coefficient m b' z)) ∧
  (∀ (s : State) (b : Bool), s.inCoef s.blockComp s.blockNum 0 = true → s.coefficient s.blockComp s.blockNum 0 = none →
      exec (.dcRefineBit b) s = .fault .unwrittenCoefficient) ∧
  (∀ (s : State) (r c : BitVec 4), exec (.acrBad r c) s = .next (s.errored .badHuffmanCode))

/-- BLK_BASELINE on a block of a DC symbol, at most one fast coefficient and an end of block dequantises it and consumes its
bits (43_block_decoder.md R274; R275; 41_bit_entropy.md R183; R188; R189; 30_encoding.md R104; R116; R117). -/
def Obligations.BaselineBlocks : Prop :=
  ∀ (s : State) (c : BitVec 4) (n1 : Nat),
    let n := s.blockComp
    let b1 := s.bits.consume n1
    let v := b1.codeBuffer.toNat / 2 ^ (32 - c.toNat)
    let diff : Int := if c = 0 then 0 else if 2 ^ (c.toNat - 1) ≤ v then (v : Int) else (v : Int) - (2 ^ c.toNat - 1)
    let dc := BitVec.ofInt 32 ((s.comp.get n).dcPred.toInt + diff)
    let Q := s.qt.get s.qTable
    let s2 : State := { s with bits := b1.consume c.toNat }
    let dcBlock : Vector (BitVec 16) 64 := (Vector.replicate 64 0).set 0 (BitVec.ofInt 16 (dc.toInt * (Q.get 0).toNat))
    let e := at? (s.fastAc.get s.acTable) (s2.bits.top 9) 0
    16 ≤ s.bits.count → s.bits.count ≤ 32 → s.NextSymbol 0 s.dcTable (c.zeroExtend 8) n1 → s.qtLoaded.get s.qTable = true →
    (n1 : Int) + c.toNat + 16 ≤ s.bits.count →
    (∀ (v2 : Byte) (n2 : Nat), e = 0 → s2.NextSymbol 1 s.acTable v2 n2 → v2.toNat % 16 = 0 → v2 ≠ 0xF0 →
        (n2 : Int) ≤ s2.bits.count →
      exec .blkBaseline s = .next { s.unheld.setComp n { s.comp.get n with dcPred := dc } with
        bits := s2.bits.consume n2, blk := { s.blk with data := dcBlock, k := 1, done := true } }) ∧
    (∀ (v2 : Byte) (n2 : Nat), e ≠ 0 → (s.huffAt 1 s.acTable).loaded = true →
        (n1 : Int) + c.toNat + fastLen e + 16 ≤ s.bits.count →
        let s3 : State := { s with bits := s2.bits.consume (fastLen e) }
        at? (s.fastAc.get s.acTable) (s3.bits.top 9) 0 = 0 → s3.NextSymbol 1 s.acTable v2 n2 → v2.toNat % 16 = 0 →
        v2 ≠ 0xF0 → (n2 : Int) ≤ s3.bits.count →
      let z := dezigzag (1 + fastRun e)
      exec .blkBaseline s = .next { s.unheld.setComp n { s.comp.get n with dcPred := dc } with
        bits := s3.bits.consume n2
        blk := { s.blk with
          data := dcBlock.set z.val (BitVec.ofInt 16 (fastValue e * (Q.get z).toNat)) z.isLt
          k := 2 + fastRun e, done := true } })

/-- BLK_DC_FIRST clears the block and writes the shifted DC; BLK_DC_REFINE adds one bit; both refuse a band beyond DC
(43_block_decoder.md R276; R277; R275; R285; 41_bit_entropy.md R183; R187; 10_state.md R41). -/
def Obligations.ProgressiveDcBlocks : Prop :=
  (∀ (s : State) (c : BitVec 4) (n1 : Nat), s.scan.specEnd = 0 → s.inCoef s.blockComp s.blockNum 0 = true →
      16 ≤ s.bits.count → s.bits.count ≤ 32 → s.NextSymbol 0 s.dcTable (c.zeroExtend 8) n1 →
      (n1 : Int) + c.toNat ≤ s.bits.count →
      let n := s.blockComp
      let b1 := s.bits.consume n1
      let v := b1.codeBuffer.toNat / 2 ^ (32 - c.toNat)
      let diff : Int := if c = 0 then 0 else if 2 ^ (c.toNat - 1) ≤ v then (v : Int) else (v : Int) - (2 ^ c.toNat - 1)
      let dc := BitVec.ofInt 32 ((s.comp.get n).dcPred.toInt + diff)
      ∃ t : State, exec .blkDcFirst s = .next t ∧
        t = { s.unheld.setComp n { s.comp.get n with dcPred := dc, coef := (t.comp.get n).coef } with
          bits := b1.consume c.toNat } ∧
        (∀ m b z, z < 64 → t.coefficient m b z =
          if m = n ∧ b = s.blockNum then
            some (if z = 0 then BitVec.ofInt 16 (dc.toInt * 2 ^ s.scan.succLow.toNat) else 0)
          else s.coefficient m b z)) ∧
  (∀ (s : State) (p : BitVec 16), s.scan.specEnd = 0 → s.coefficient s.blockComp s.blockNum 0 = some p →
      16 ≤ s.bits.count → s.bits.count ≤ 32 →
      ∃ t : State, exec .blkDcRefine s = .next t ∧
        t = { s.unheld.setComp s.blockComp
                { s.comp.get s.blockComp with coef := (t.comp.get s.blockComp).coef } with
          bits := s.bits.consume 1 } ∧
        (∀ m b z, z < 64 → t.coefficient m b z =
          if s.bits.codeBuffer.getLsbD 31 = true ∧ m = s.blockComp ∧ b = s.blockNum ∧ z = 0 then
            some (BitVec.ofInt 16 (p.toInt + 2 ^ s.scan.succLow.toNat))
          else s.coefficient m b z)) ∧
  (∀ s : State, s.scan.specEnd ≠ 0 → exec .blkDcFirst s = .next (s.errored .badProgressiveScan) ∧
      exec .blkDcRefine s = .next (s.errored .badProgressiveScan))

/-- AC blocks: a block of an EOB run only counts down (and corrects its nonzero coefficients); an EOB symbol starts a run
(43_block_decoder.md R278; R279; R280; R281; R282; R283; R285; 41_bit_entropy.md R183; R189; 30_encoding.md R118; R119). -/
def Obligations.AcBlocks : Prop :=
  (∀ s : State, s.scan.eobRun ≠ 0 →
      exec .blkAcFirst s = .next { s.unheld with scan := { s.scan with eobRun := s.scan.eobRun - 1 } }) ∧
  (∀ s : State, s.scan.eobRun ≠ 0 →
      (∀ k, s.scan.specStart.toNat ≤ k → k ≤ s.scan.specEnd.toNat →
        s.coefficient s.blockComp s.blockNum (dezigzag k).val = some 0) →
      exec .blkAcRefine s = .next { s.unheld with scan := { s.scan with eobRun := s.scan.eobRun - 1 } }) ∧
  (∀ (s : State) (p : BitVec 16), s.scan.eobRun ≠ 0 → s.scan.specStart = s.scan.specEnd → 1 ≤ s.bits.count →
      s.bits.count ≤ 32 → p ≠ 0 →
      let z0 := (dezigzag s.scan.specStart.toNat).val
      s.coefficient s.blockComp s.blockNum z0 = some p →
      ∃ t : State, exec .blkAcRefine s = .next t ∧
        t = { s.unheld.setComp s.blockComp
                { s.comp.get s.blockComp with coef := (t.comp.get s.blockComp).coef } with
          bits := s.bits.consume 1, scan := { s.scan with eobRun := s.scan.eobRun - 1 } } ∧
        (∀ m b z, z < 64 → t.coefficient m b z =
          if s.bits.codeBuffer.getLsbD 31 = true ∧ p.getLsbD s.scan.succLow.toNat = false ∧ m = s.blockComp ∧
              b = s.blockNum ∧ z = z0 then
            some (BitVec.ofInt 16 (if 0 < p.toInt then p.toInt + 2 ^ s.scan.succLow.toNat
              else p.toInt - 2 ^ s.scan.succLow.toNat))
          else s.coefficient m b z)) ∧
  (∀ (s : State) (co : Nat → BitVec 16),
      let first := s.scan.specStart.toNat
      let last := s.scan.specEnd.toNat
      let bits := nonzeros co first (last + 1)
      s.scan.eobRun ≠ 0 → last ≤ 63 → s.BandIs co first last → (bits : Int) ≤ s.bits.count → s.bits.count ≤ 32 →
      ∃ t : State, exec .blkAcRefine s = .next t ∧
        t = { s.unheld.setComp s.blockComp
                { s.comp.get s.blockComp with coef := (t.comp.get s.blockComp).coef } with
          bits := s.bits.consume bits, scan := { s.scan with eobRun := s.scan.eobRun - 1 } } ∧
        s.Refined co first last (last + 1) 0 0 t) ∧
  (∀ (s t : State) (rs : Byte) (n1 : Nat) (i : Instr), s.scan.eobRun = 0 → 16 ≤ s.bits.count → s.bits.count ≤ 32 →
      s.NextSymbol 1 s.acTable rs n1 → (n1 : Int) ≤ s.bits.count → decode (.acrSym rs) = .ok i →
      exec i { s.unheld with
        bits := s.bits.consume n1, blk := { s.blk with k := s.scan.specStart.toNat, done := false } } = .next t →
      t.ctl.stallIn = false → s.scan.specEnd.toNat < t.blk.k → exec .blkAcRefine s = .next t) ∧
  (∀ (s : State) (r n1 : Nat), s.scan.eobRun = 0 → r < 15 → 16 ≤ s.bits.count → s.bits.count ≤ 32 →
      s.NextSymbol 1 s.acTable (BitVec.ofNat 8 (16 * r)) n1 → (n1 : Int) + r ≤ s.bits.count →
      let b1 := s.bits.consume n1
      let v := b1.codeBuffer.toNat / 2 ^ (32 - r)
      (at? (s.fastAc.get s.acTable) (s.bits.top 9) 0 = 0 →
        exec .blkAcFirst s = .next { s.unheld with
          bits := b1.consume r
          scan := { s.scan with eobRun := BitVec.ofNat 32 (2 ^ r + v - 1) }
          blk := { s.blk with k := s.scan.specStart.toNat, done := true } }) ∧
      (s.scan.specStart.toNat ≤ s.scan.specEnd.toNat → s.scan.specEnd.toNat ≤ 63 →
        (∀ k, s.scan.specStart.toNat ≤ k → k ≤ s.scan.specEnd.toNat →
          s.coefficient s.blockComp s.blockNum (dezigzag k).val = some 0) →
        exec .blkAcRefine s = .next { s.unheld with
          bits := b1.consume r
          scan := { s.scan with eobRun := BitVec.ofNat 32 (2 ^ r - 1 + v) }
          blk := { s.blk with k := s.scan.specEnd.toNat + 1, done := false } })) ∧
  (∀ s : State,
      let n := s.blockComp
      let e := at? (s.fastAc.get s.acTable) (s.bits.top 9) 0
      let k := s.scan.specStart.toNat + fastRun e
      s.scan.eobRun = 0 → 16 ≤ s.bits.count → s.bits.count ≤ 32 → (s.huffAt 1 s.acTable).loaded = true → e ≠ 0 →
      s.scan.specEnd.toNat ≤ k → s.inCoef n s.blockNum (dezigzag k).val = true →
      ∃ t : State, exec .blkAcFirst s = .next t ∧
        t = { s.unheld.setComp n { s.comp.get n with coef := (t.comp.get n).coef } with
          bits := s.bits.consume (fastLen e), blk := { s.blk with k := k + 1, done := false } } ∧
        (∀ m b z, z < 64 → t.coefficient m b z =
          if m = n ∧ b = s.blockNum ∧ z = (dezigzag k).val then
            some (BitVec.ofInt 16 (fastValue e * 2 ^ s.scan.succLow.toNat))
          else s.coefficient m b z))

/-- What the bit operations, the entropy symbols and the block operations leave unchanged, whatever they answer
(43_block_decoder.md R274; R276; R277; R278; R280; 41_bit_entropy.md R180; R182; R186; R187; R188; 42_marker_parser.md R248;
60_exceptions.md R411). -/
def Obligations.EntropyFrames : Prop :=
  (∀ (s t : State) (i : Instr),
      (i = .fill ∨ i = .decodeHuff ∨ i = .getBits ∨ i = .getBit ∨ i = .receiveExtend ∨ i = .getMarker ∨ i = .seekMarker) →
      exec i s = .next t →
      t = { s with
        phase := t.phase, errCode := t.errCode, errClass := t.errClass, ctl := t.ctl, bytePos := t.bytePos, bits := t.bits
        port := { s.port with input := t.port.input }, lastMarker := t.lastMarker, lastMarkerValid := t.lastMarkerValid
        unit := { s.unit with result := t.unit.result } }) ∧
  (∀ (s t : State) (i : Instr),
      ((∃ c, i = .dcDiff c) ∨ (∃ r c, i = .acCoef r c) ∨ i = .acZrl ∨ (∃ r, i = .acEob r) ∨ (∃ r c, i = .acpCoef r c) ∨
        i = .acpZrl ∨ (∃ r, i = .acpEobrun r) ∨ (∃ r, i = .acrCoef r) ∨ i = .acrZrl ∨ (∃ r, i = .acrEobrun r) ∨
        (∃ r c, i = .acrBad r c) ∨ (∃ b, i = .dcRefineBit b) ∨ i = .blkBaseline ∨ i = .blkDcFirst ∨ i = .blkDcRefine ∨
        i = .blkAcFirst ∨ i = .blkAcRefine) →
      exec i s = .next t →
      t = { s with
        phase := t.phase, errCode := t.errCode, errClass := t.errClass, ctl := t.ctl, bytePos := t.bytePos, bits := t.bits
        port := { s.port with input := t.port.input }, scan := { s.scan with eobRun := t.scan.eobRun }
        blk := { t.blk with px := s.blk.px }, comp := t.comp } ∧
      (∀ c, t.comp.get c = { s.comp.get c with
        dcPred := if c = s.blockComp then (t.comp.get c).dcPred else (s.comp.get c).dcPred, coef := (t.comp.get c).coef }) ∧
      (∀ c b z, ¬(c = s.blockComp ∧ b = s.blockNum) → t.coefficient c b z = s.coefficient c b z) ∧
      (∀ c y x, t.sample c y x = s.sample c y x))

/-- IDCT is the column pass and the row pass of the kernel with the integers of R330; the transform of a DC-only block is constant;
the DC shortcut of a column agrees with the full kernel (R331; R332; R333; R334; R335; R338; R339). -/
def Obligations.IdctOfFlatBlocks : Prop :=
  (∀ s : State, (∀ i : Fin 64, i ≠ 0 → s.blk.data.get i = 0) →
      exec .idct s = .next { s.unheld with blk := { s.blk with
        px := Vector.replicate 64 (BitVec.ofNat 8 (min 255 (128 + ((s.blk.data.get 0).toInt + 4) / 8).toNat)) } }) ∧
  (∀ (d : Vector (BitVec 16) 64) (i : Fin 8) (r : Fin 8), columnFlat d i.val = true →
      passOut (kst 512) 10 (columnKernel d i.val) r.val = blockAt d 0 i.val * 4 ∧
        columnPass d r.val i.val = blockAt d 0 i.val * 4) ∧
  (∀ (s : State) (d : Vector (BitVec 16) 64),
      let px (d : Vector (BitVec 16) 64) : Vector Byte 64 :=
        Vector.ofFn (fun i : Fin 64 => dctPixel d (i.val / 8) (i.val % 8))
      exec .idct s = .next { s.unheld with blk := { s.blk with px := px s.blk.data } } ∧ idctBlock d = px d)

/-- DEQUANT_IDCT dequantises, transforms and places one block and moves on; the last block ends FINISH (43_block_decoder.md
R286; 45_idct.md R336; R337; 20_memory.md R77; R78). The model's: that fk, of 2 bits, wraps to 0 after a fourth component, and
what fi and fj are then (log 9, DEDUCED); that data and px hold the block afterwards (log 6, DESIGN CHOICE). -/
def Obligations.FinishBlockPlaced : Prop :=
  (∀ (s : State) (co : Vector (BitVec 16) 64),
      let k := idx2 s.pos.fk
      let c := s.comp.get k
      let Q := s.qt.get (idx2 c.tq)
      let lastCol := s.pos.fi.toNat + 1 = c.gridW
      let lastRow := s.pos.fj.toNat + 1 = c.gridH
      s.qtLoaded.get (idx2 c.tq) = true → s.pos.fj.toNat < c.gridH → s.pos.fk.toNat < s.frame.imgN.toNat →
      (∀ z : Fin 64, s.coefficient k (s.pos.fi.toNat + s.pos.fj.toNat * c.coeffW.toNat) z.val = some (co.get z)) →
      (∀ y x, y < 8 → x < 8 → s.inPlane k (8 * s.pos.fj.toNat + y) (8 * s.pos.fi.toNat + x) = true) →
      let data := Vector.ofFn (fun z : Fin 64 => BitVec.ofInt 16 ((co.get z).toInt * (Q.get z).toNat))
      ∃ t : State, exec .dequantIdct s = .next t ∧
        t = { s.unheld.setComp k { c with plane := (t.comp.get k).plane } with
          blk := { s.blk with data := data, px := idctBlock data }
          pos := { s.pos with
            fi := if lastCol then 0 else s.pos.fi + 1
            fj := if lastCol then (if lastRow then 0 else s.pos.fj + 1) else s.pos.fj
            fk := if lastCol ∧ lastRow then s.pos.fk + 1 else s.pos.fk }
          phase := if lastCol ∧ lastRow ∧ s.pos.fk.toNat + 1 = s.frame.imgN.toNat then .output else s.phase } ∧
        (∀ y x, y < 8 → x < 8 → t.sample k (8 * s.pos.fj.toNat + y) (8 * s.pos.fi.toNat + x) =
          some (at? (idctBlock data) (8 * y + x) 0)) ∧
        (∀ m y x, ¬(m = k ∧ y / 8 = s.pos.fj.toNat ∧ x / 8 = s.pos.fi.toNat) → t.sample m y x = s.sample m y x) ∧
        (∀ m b z, t.coefficient m b z = s.coefficient m b z)) ∧
  (∀ s : State, s.pos.fi = 0 → s.pos.fj = 0 → s.qtLoaded.get (idx2 (s.comp.get (idx2 s.pos.fk)).tq) = false →
      exec .dequantIdct s = .next (s.errored .missingQuantTable))

/-- Each resampler kernel puts exactly the row its rule gives in the line buffer of its component (46_resampler.md R353; R354;
R355; R356; R357). The model's: that the line buffer keeps all hs * w bytes of RS_GENERIC, where R52 gives it 2 * w_lores (log 25,
DEDUCED); that w is the length of the operand row, and where the operands stand (logs 22 and 6, DESIGN CHOICE). -/
def Obligations.ResampleKernels : Prop :=
  ∀ s : State,
    let k := idx2 s.unit.comp
    let w := s.unit.inNear.length
    let a := fun i : Nat => (s.unit.inNear.getD i 0).toNat
    let f := fun i : Nat => (s.unit.inFar.getD i 0).toNat
    let h := fun i : Nat => 3 * a i + f i
    let hs := (s.rs.get k).hs.toNat
    let gives := fun (i : Instr) (out : List Byte) =>
      exec i s = .next (s.unheld.setRs k { s.rs.get k with lineBuf := out })
    gives .rs1x1 s.unit.inNear ∧
    (s.unit.inFar.length = w → ∃ out : List Byte, gives .rsV2 out ∧ out.length = w ∧
      ∀ i, i < w → (out.getD i 0).toNat = (3 * a i + f i + 2) / 4) ∧
    (1 ≤ w → ∃ out : List Byte, gives .rsH2 out ∧ out.length = 2 * w ∧
      (w = 1 → out = [s.unit.inNear.getD 0 0, s.unit.inNear.getD 0 0]) ∧
      (2 ≤ w → (out.getD 0 0).toNat = a 0 ∧ (out.getD 1 0).toNat = (3 * a 0 + a 1 + 2) / 4 ∧
        (out.getD (2 * w - 2) 0).toNat = (3 * a (w - 2) + a (w - 1) + 2) / 4 ∧ (out.getD (2 * w - 1) 0).toNat = a (w - 1)) ∧
      (∀ i, 1 ≤ i → i + 2 ≤ w → (out.getD (2 * i) 0).toNat = (3 * a i + 2 + a (i - 1)) / 4 ∧
        (out.getD (2 * i + 1) 0).toNat = (3 * a i + 2 + a (i + 1)) / 4)) ∧
    (1 ≤ w → s.unit.inFar.length = w → ∃ out : List Byte, gives .rsHv2 out ∧ out.length = 2 * w ∧
      (out.getD 0 0).toNat = (h 0 + 2) / 4 ∧ (out.getD (2 * w - 1) 0).toNat = (h (w - 1) + 2) / 4 ∧
      (∀ i, 1 ≤ i → i < w → (out.getD (2 * i - 1) 0).toNat = (3 * h (i - 1) + h i + 8) / 16 ∧
        (out.getD (2 * i) 0).toNat = (3 * h i + h (i - 1) + 8) / 16)) ∧
    (∃ out : List Byte, gives .rsGeneric out ∧ out.length = hs * w ∧
      ∀ i j, i < w → j < hs → (out.getD (i * hs + j) 0).toNat = a i)

/-- Each colour conversion gives the pixel its rule gives, blinn being the product over 255 rounded to nearest (R373; R374;
R375; R376; R377; R378; R379). -/
def Obligations.ColourConversions : Prop :=
  ∀ s : State,
    let c := s.unit.samples
    let sat := fun x : Int => BitVec.ofNat 8 (min 255 x.toNat)
    let yf := ((c.get 0).toNat : Int) * 2 ^ 20 + 2 ^ 19
    let cb := ((c.get 1).toNat : Int) - 128
    let cr := ((c.get 2).toNat : Int) - 128
    let red : Byte := sat ((yf + cr * 1470208) / 2 ^ 20)
    let green : Byte := sat ((yf - cr * 748800 + 65536 * (cb * (-360960) / 65536)) / 2 ^ 20)
    let blue : Byte := sat ((yf + cb * 1858048) / 2 ^ 20)
    let mul := fun x : Byte => BitVec.ofNat 8 ((2 * (x.toNat * (c.get 3).toNat) + 255) / 510)
    let gives := fun (i : Instr) (px : List Byte) => exec i s = .next { s.unheld with unit := { s.unit with pixel := px } }
    gives .ccGray [c.get 0] ∧ gives .ccRgb [c.get 0, c.get 1, c.get 2] ∧
      gives .ccYcbcr [red, green, blue] ∧ gives .ccYcbcrK [red, green, blue] ∧
      gives .ccCmyk [mul (c.get 0), mul (c.get 1), mul (c.get 2)] ∧
      gives .ccYcck [mul (255 - red), mul (255 - green), mul (255 - blue)]

/-- RESET gives the start state of an interval; RESTART counts, resynchronises at a due RSTm of any number, and else fails
(R314; R317). -/
def Obligations.RestartMachine : Prop :=
  let resetOf : State → State := fun s => { s with
    bits := { codeBuffer := 0, codeBits := 0, noMoreBits := false, marker := 0xFF }
    comp := s.comp.map (fun c => { c with dcPred := 0 })
    scan := { s.scan with eobRun := 0 }
    todo := if s.restartInterval ≠ 0 then s.restartInterval.zeroExtend 32 else 0x7FFFFFFF }
  (∀ s : State, exec .reset s = .next (resetOf s.unheld)) ∧
  (∀ s : State, (0 < (s.todo - 1).toInt ∨ s.unit.last = true) →
      exec .restart s = .next { s.unheld with todo := s.todo - 1 }) ∧
  (∀ s : State, (s.todo - 1).toInt ≤ 0 → s.unit.last = false → 0xD0 ≤ s.bits.marker.toNat → s.bits.marker.toNat ≤ 0xD7 →
      (24 ≤ s.bits.count ∨ (0 ≤ s.bits.count ∧ s.bits.noMoreBits = true)) →
      exec .restart s = .next (resetOf s.unheld)) ∧
  (∀ s : State, (s.todo - 1).toInt ≤ 0 → s.unit.last = false → ¬(0xD0 ≤ s.bits.marker.toNat ∧ s.bits.marker.toNat ≤ 0xD7) →
      24 ≤ s.bits.count →
      exec .restart s = .next { s.errored .noResetMarker with todo := s.todo - 1 }) ∧
  (∀ (s : State) (ds : List (Byte × Nat)) (k : Nat) (m : Byte) (rest : List Byte), (s.todo - 1).toInt ≤ 0 →
      s.unit.last = false → 0 ≤ s.bits.count → s.bits.count < 24 → s.bits.noMoreBits = false → m ≠ 0 → m ≠ 0xFF →
      ds.length ≤ (24 - s.bits.count.toNat) / 8 → s.port.input = ecsBytes ds ++ (markerBytes k m ++ rest) →
      exec .restart s =
        if 0xD0 ≤ m.toNat ∧ m.toNat ≤ 0xD7 then .next (resetOf (s.unheld.consumed ((ecsBytes ds).length + (k + 2))))
        else .next { (s.consumed ((ecsBytes ds).length + (k + 2))).errored .noResetMarker with
          todo := s.todo - 1, bits := { s.bits.appendAll ds with marker := m, noMoreBits := true } }) ∧
  (∀ (s : State) (ds : List (Byte × Nat)) (rest : List Byte), (s.todo - 1).toInt ≤ 0 → s.unit.last = false →
      0 ≤ s.bits.count → s.bits.count < 24 → s.bits.noMoreBits = false →
      ¬(0xD0 ≤ s.bits.marker.toNat ∧ s.bits.marker.toNat ≤ 0xD7) →
      ds.length = (24 - s.bits.count.toNat) / 8 + 1 → s.port.input = ecsBytes ds ++ rest →
      exec .restart s = .next { (s.consumed (ecsBytes ds).length).errored .noResetMarker with
        todo := s.todo - 1, bits := s.bits.appendAll ds }) ∧
  (∀ s : State, (s.todo - 1).toInt ≤ 0 → s.unit.last = false → 0 ≤ s.bits.count → s.bits.count < 24 →
      s.bits.noMoreBits = true → ¬(0xD0 ≤ s.bits.marker.toNat ∧ s.bits.marker.toNat ≤ 0xD7) →
      exec .restart s = .next { s.errored .noResetMarker with
        todo := s.todo - 1
        bits := { s.bits with codeBits := s.bits.codeBits + BitVec.ofNat 8 (8 * ((24 - s.bits.count.toNat) / 8 + 1)) } })

/-- A row is made of one resampled row of each component, the first row's step setting the resampler and the conversion up; it
waits for the host and counts when accepted; the last one ends the decode in DONE (47_color_output.md R370; R371; R372; R373;
R380; R381; 46_resampler.md R350; R351; R352; R353; 20_memory.md R85; 10_state.md R28). The model's: that the line buffer keeps the
whole output of RS_GENERIC, where R52 gives it 2 * w_lores (log 25, DEDUCED); that a waiting row is held in `rowPending` and a step
without acceptance is one to the same state (log 23, DESIGN CHOICE; log 28, DEDUCED); that is_rgb is a register (log 24, DEDUCED) and
it, `cc` and the records stand while the row waits (log 23). -/
def Obligations.RowsProducedAndAccepted : Prop :=
  (∀ (s : State) (row : List Byte), s.OwnTurn → s.phase = .output → s.cancels = false → s.rowPending = none →
      s.pos.oj ≠ 0 → s.frame.imgN = 1 → (s.rs.get 0).kern = 0x30 → s.cc = 0x40 → (s.rs.get 0).wLores = s.frame.imgX →
      row.length = s.frame.imgX.toNat →
      (∀ i, i < row.length → s.sample 0 (s.rs.get 0).near i = some (row.getD i 0)) →
      ∃ t : State, step s = .next t ∧ t.comp = s.comp ∧ t.frame = s.frame ∧
        (t.rs.get 0).lineBuf = row ∧
        (if 0 < s.port.rowAccepts then
          t.port.events = s.port.events ++ [.row s.pos.oj row] ∧ t.rowsEmitted = s.rowsEmitted + 1 ∧
            t.pos.oj = s.pos.oj + 1 ∧ t.rowPending = none ∧
            t.phase = if s.pos.oj.toNat + 1 = s.frame.imgY.toNat then .done else .output
        else t.port.events = s.port.events ∧ t.rowsEmitted = s.rowsEmitted ∧ t.pos.oj = s.pos.oj ∧
          t.rowPending = some (s.pos.oj, row) ∧ t.phase = .output)) ∧
  (∀ (s : State) (j : BitVec 16) (data : List Byte), s.OwnTurn → s.phase = .output → s.rowPending = some (j, data) →
      step s = if 0 < s.port.rowAccepts then
          .next { s with
            port := { s.port with rowAccepts := s.port.rowAccepts - 1, events := s.port.events ++ [.row j data] }
            rowsEmitted := s.rowsEmitted + 1
            rowPending := none
            pos := { s.pos with oj := s.pos.oj + 1 }
            phase := if s.pos.oj.toNat + 1 = s.frame.imgY.toNat then .done else .output }
        else .next s) ∧
  (∀ s : State, s.OwnTurn → s.phase = .output → s.cancels = false → s.rowPending = none → s.frame.imgN.toNat ≤ 4 →
    let first := s.pos.oj = 0
    let rgb : Bool := s.frame.imgN == 3 && (s.flags.rgbIds == 3 || (s.flags.app14Valid && s.flags.app14 == 0 && !s.flags.jfif))
    let cc : Byte := if ¬first then s.cc
      else if s.frame.imgN = 1 then 0x40
      else if s.frame.imgN = 3 then (if rgb then 0x41 else 0x42)
      else if s.flags.app14Valid = true ∧ s.flags.app14 = 0 then 0x43
      else if s.flags.app14Valid = true ∧ s.flags.app14 = 2 then 0x44 else 0x45
    let record := fun k : Fin 4 =>
      let hs := s.frame.hMax.toNat / (s.comp.get k).h.toNat
      let vs := s.frame.vMax.toNat / (s.comp.get k).v.toNat
      if first then
        { hs := BitVec.ofNat 3 hs, vs := BitVec.ofNat 3 vs, wLores := BitVec.ofNat 16 (ceilDiv s.frame.imgX.toNat hs)
          ystep := BitVec.ofNat 3 (vs / 2), ypos := 0, line0 := 0, line1 := 0
          kern := if hs = 1 ∧ vs = 1 then 0x30 else if hs = 1 ∧ vs = 2 then 0x31 else if hs = 2 ∧ vs = 1 then 0x32
            else if hs = 2 ∧ vs = 2 then 0x33 else 0x34
          lineBuf := (s.rs.get k).lineBuf : Resampler }
      else s.rs.get k
    let lower := fun k : Fin 4 => (record k).vs.toNat / 2 ≤ (record k).ystep.toNat
    let nearRow := fun k : Fin 4 => if lower k then (record k).line1.toNat else (record k).line0.toNat
    let farRow := fun k : Fin 4 => if lower k then (record k).line0.toNat else (record k).line1.toNat
    let blends := fun k : Fin 4 => (record k).kern = 0x31 ∨ (record k).kern = 0x33
    let pixel := fun v : Samples =>
      if cc = 0x40 then ccGray v else if cc = 0x41 then ccRgb v else if cc = 0x42 then ccYcbcr v
      else if cc = 0x43 then ccCmyk v else if cc = 0x44 then ccYcck v else ccYcbcrK v
    ((∀ k : Fin 4, k.val < s.frame.imgN.toNat → ∀ i, i < (record k).wLores.toNat →
        (s.sample k (nearRow k) i).isSome = true ∧ (blends k → (s.sample k (farRow k) i).isSome = true)) →
      ∃ t : State, step s = .next t) ∧
    (∀ t : State, step s = .next t → t.comp = s.comp ∧ t.frame = s.frame ∧ t.cc = cc ∧
      t.flags = (if first then { s.flags with isRgb := rgb } else s.flags) ∧
      (∀ k : Fin 4, s.frame.imgN.toNat ≤ k.val → t.rs.get k = s.rs.get k) ∧
      (∀ k : Fin 4, k.val < s.frame.imgN.toNat → ∃ near far : List Byte,
        near.length = (record k).wLores.toNat ∧ (blends k → far.length = near.length) ∧
        (∀ i, i < near.length → s.sample k (nearRow k) i = some (near.getD i 0) ∧
          (blends k → s.sample k (farRow k) i = some (far.getD i 0))) ∧
        t.rs.get k =
          let r := record k
          let wraps := r.vs.toNat ≤ r.ystep.toNat + 1
          { r with
            lineBuf :=
              if r.kern = 0x30 then kernel1x1 near else if r.kern = 0x31 then kernelV2 near far
              else if r.kern = 0x32 then kernelH2 near else if r.kern = 0x33 then kernelHV2 near far
              else kernelGeneric r.hs.toNat near
            ystep := if wraps then 0 else r.ystep + 1
            line0 := if wraps then r.line1 else r.line0
            ypos := if wraps then r.ypos + 1 else r.ypos
            line1 := if wraps ∧ r.ypos.toNat + 1 < (s.comp.get k).y.toNat then r.line1 + 1 else r.line1 }) ∧
      (let data := (List.range s.frame.imgX.toNat).flatMap (fun i =>
          pixel (Vector.ofFn (fun k : Fin 4 => (t.rs.get k).lineBuf.getD i 0)))
        if 0 < s.port.rowAccepts then
          t.port.events = s.port.events ++ [.row s.pos.oj data] ∧ t.rowsEmitted = s.rowsEmitted + 1 ∧
            t.pos.oj = s.pos.oj + 1 ∧ t.rowPending = none ∧
            t.phase = if s.pos.oj.toNat + 1 = s.frame.imgY.toNat then .done else .output
        else t.port.events = s.port.events ∧ t.rowsEmitted = s.rowsEmitted ∧ t.pos.oj = s.pos.oj ∧
          t.rowPending = some (s.pos.oj, data) ∧ t.phase = .output)))

/-- A step of SCAN decodes the blocks of one MCU, places them in a sequential frame, makes the restart check and moves on in
row-major order; after the last MCU it leaves for FRAME, seeking a marker if none is latched and dropping one RST
(43_block_decoder.md R270; R272; R273; R278; R284; 42_marker_parser.md R247; R248; 44_restart_fsm.md R313; R315). The blocks and
the check are told by what their instructions answer when run alone (logs 6, 7 and 27, DESIGN CHOICE: their operands and IDCT). -/
def Obligations.ScanSteps : Prop :=
  (∀ s : State, s.OwnTurn → s.phase = .scan → s.cancels = false → s.scanDone = true → s.bits.marker ≠ 0xFF →
      step s = .next { s.unheld with
        phase := .frame
        bits := if 0xD0 ≤ s.bits.marker.toNat ∧ s.bits.marker.toNat ≤ 0xD7 then { s.bits with marker := 0xFF } else s.bits }) ∧
  (∀ (s : State) (ds : List (Byte × Nat)) (k : Nat) (m : Byte) (rest : List Byte), s.OwnTurn → s.phase = .scan →
      s.cancels = false → s.scanDone = true → s.bits.marker = 0xFF → m ≠ 0 → m ≠ 0xFF →
      s.port.input = ecsBytes ds ++ (markerBytes k m ++ rest) →
      step s = .next { s.unheld.consumed ((ecsBytes ds).length + (k + 2)) with
        phase := .frame
        bits := if 0xD0 ≤ m.toNat ∧ m.toNat ≤ 0xD7 then s.bits else { s.bits with marker := m } }) ∧
  (∀ s : State, s.OwnTurn → s.phase = .scan → s.cancels = false → s.scanDone = false → s.frame.progressive = true →
      s.scan.scanN = 1 → s.scan.specStart ≠ 0 → s.scan.succHigh = 0 → s.scan.eobRun ≠ 0 →
      (0 < (s.todo - 1).toInt ∨ s.lastMcu = true) →
      step s = .next { s.unheld with
        scan := { s.scan with eobRun := s.scan.eobRun - 1 }
        todo := s.todo - 1
        pos := if s.pos.mcuI.toNat + 1 = ceilDiv (s.comp.get (idx2 (s.scan.order.get 0))).x.toNat 8 then
            { s.pos with mcuI := 0, mcuJ := s.pos.mcuJ + 1 }
          else { s.pos with mcuI := s.pos.mcuI + 1 } }) ∧
  (∀ s t : State, s.OwnTurn → s.phase = .scan → s.cancels = false → s.scanDone = false → 1 ≤ s.scan.scanN.toNat →
      s.scan.scanN.toNat ≤ 4 → step s = .next t → t.phase = .scan → t.ctl.stallIn = false →
      ∃ u m : State, s.unheld.McuDone u ∧ exec .restart { u with unit := { u.unit with last := s.lastMcu } } = .next m ∧
        t = { m with unit := s.unit, pos := u.posAfterMcu }) ∧
  (∀ s u m : State, s.OwnTurn → s.phase = .scan → s.cancels = false → s.scanDone = false → 1 ≤ s.scan.scanN.toNat →
      s.scan.scanN.toNat ≤ 4 → s.frame.progressive = true → s.unheld.McuDone u →
      exec .restart { u with unit := { u.unit with last := s.lastMcu } } = .next m → m.ctl.stallIn = false →
      step s = .next { m with unit := s.unit, pos := if m.phase = .scan then u.posAfterMcu else u.pos }) ∧
  (∀ s b : State, s.OwnTurn → s.phase = .scan → s.cancels = false → s.scanDone = false → s.frame.progressive = false →
      s.scan.scanN = 1 → exec .blkBaseline s.unheld = .next b → b.phase = .scan → b.ctl.stallIn = false →
      (∀ y x, y < 8 → x < 8 → s.inPlane s.blockComp (8 * s.blockRow + y) (8 * s.blockCol + x) = true) →
      (0 < (s.todo - 1).toInt ∨ s.lastMcu = true) →
      ∃ t u : State, step s = .next t ∧ b.Placed s.blockComp s.blockCol s.blockRow u ∧
        t = { u with todo := s.todo - 1, pos := s.posAfterMcu })
end

