-- ==== Sys2Proof/Laws/State.lean ====
section
/-! SUPPORT. What each update of the state leaves in each field: one lemma per field per update, true by unfolding. -/

namespace Sys2Proof.Machine

variable (s : State)

@[simp] theorem State.setPhase_cfg (p : Phase) : (s.setPhase p).cfg = s.cfg := rfl
@[simp] theorem State.setPhase_phase (p : Phase) : (s.setPhase p).phase = p := rfl
@[simp] theorem State.setPhase_errCode (p : Phase) : (s.setPhase p).errCode = s.errCode := rfl
@[simp] theorem State.setPhase_errClass (p : Phase) : (s.setPhase p).errClass = s.errClass := rfl
@[simp] theorem State.setPhase_bytePos (p : Phase) : (s.setPhase p).bytePos = s.bytePos := rfl
@[simp] theorem State.setPhase_rowsEmitted (p : Phase) : (s.setPhase p).rowsEmitted = s.rowsEmitted := rfl
@[simp] theorem State.setPhase_pos (p : Phase) : (s.setPhase p).pos = s.pos := rfl
@[simp] theorem State.setPhase_ctl (p : Phase) : (s.setPhase p).ctl = s.ctl := rfl
@[simp] theorem State.setPhase_lastMarker (p : Phase) : (s.setPhase p).lastMarker = s.lastMarker := rfl
@[simp] theorem State.setPhase_lastMarkerValid (p : Phase) : (s.setPhase p).lastMarkerValid = s.lastMarkerValid := rfl
@[simp] theorem State.setPhase_huff (p : Phase) : (s.setPhase p).huff = s.huff := rfl
@[simp] theorem State.setPhase_fastAc (p : Phase) : (s.setPhase p).fastAc = s.fastAc := rfl
@[simp] theorem State.setPhase_qt (p : Phase) : (s.setPhase p).qt = s.qt := rfl
@[simp] theorem State.setPhase_qtLoaded (p : Phase) : (s.setPhase p).qtLoaded = s.qtLoaded := rfl
@[simp] theorem State.setPhase_frame (p : Phase) : (s.setPhase p).frame = s.frame := rfl
@[simp] theorem State.setPhase_comp (p : Phase) : (s.setPhase p).comp = s.comp := rfl
@[simp] theorem State.setPhase_planesAllocated (p : Phase) : (s.setPhase p).planesAllocated = s.planesAllocated := rfl
@[simp] theorem State.setPhase_bits (p : Phase) : (s.setPhase p).bits = s.bits := rfl
@[simp] theorem State.setPhase_scan (p : Phase) : (s.setPhase p).scan = s.scan := rfl
@[simp] theorem State.setPhase_restartInterval (p : Phase) : (s.setPhase p).restartInterval = s.restartInterval := rfl
@[simp] theorem State.setPhase_todo (p : Phase) : (s.setPhase p).todo = s.todo := rfl
@[simp] theorem State.setPhase_flags (p : Phase) : (s.setPhase p).flags = s.flags := rfl
@[simp] theorem State.setPhase_rs (p : Phase) : (s.setPhase p).rs = s.rs := rfl
@[simp] theorem State.setPhase_cc (p : Phase) : (s.setPhase p).cc = s.cc := rfl
@[simp] theorem State.setPhase_blk (p : Phase) : (s.setPhase p).blk = s.blk := rfl
@[simp] theorem State.setPhase_unit (p : Phase) : (s.setPhase p).unit = s.unit := rfl
@[simp] theorem State.setPhase_issue (p : Phase) : (s.setPhase p).issue = s.issue := rfl
@[simp] theorem State.setPhase_rowPending (p : Phase) : (s.setPhase p).rowPending = s.rowPending := rfl
@[simp] theorem State.setPhase_port (p : Phase) : (s.setPhase p).port = s.port := rfl

@[simp] theorem State.setPos_cfg (p : LoopPos) : (s.setPos p).cfg = s.cfg := rfl
@[simp] theorem State.setPos_phase (p : LoopPos) : (s.setPos p).phase = s.phase := rfl
@[simp] theorem State.setPos_errCode (p : LoopPos) : (s.setPos p).errCode = s.errCode := rfl
@[simp] theorem State.setPos_errClass (p : LoopPos) : (s.setPos p).errClass = s.errClass := rfl
@[simp] theorem State.setPos_bytePos (p : LoopPos) : (s.setPos p).bytePos = s.bytePos := rfl
@[simp] theorem State.setPos_rowsEmitted (p : LoopPos) : (s.setPos p).rowsEmitted = s.rowsEmitted := rfl
@[simp] theorem State.setPos_pos (p : LoopPos) : (s.setPos p).pos = p := rfl
@[simp] theorem State.setPos_ctl (p : LoopPos) : (s.setPos p).ctl = s.ctl := rfl
@[simp] theorem State.setPos_lastMarker (p : LoopPos) : (s.setPos p).lastMarker = s.lastMarker := rfl
@[simp] theorem State.setPos_lastMarkerValid (p : LoopPos) : (s.setPos p).lastMarkerValid = s.lastMarkerValid := rfl
@[simp] theorem State.setPos_huff (p : LoopPos) : (s.setPos p).huff = s.huff := rfl
@[simp] theorem State.setPos_fastAc (p : LoopPos) : (s.setPos p).fastAc = s.fastAc := rfl
@[simp] theorem State.setPos_qt (p : LoopPos) : (s.setPos p).qt = s.qt := rfl
@[simp] theorem State.setPos_qtLoaded (p : LoopPos) : (s.setPos p).qtLoaded = s.qtLoaded := rfl
@[simp] theorem State.setPos_frame (p : LoopPos) : (s.setPos p).frame = s.frame := rfl
@[simp] theorem State.setPos_comp (p : LoopPos) : (s.setPos p).comp = s.comp := rfl
@[simp] theorem State.setPos_planesAllocated (p : LoopPos) : (s.setPos p).planesAllocated = s.planesAllocated := rfl
@[simp] theorem State.setPos_bits (p : LoopPos) : (s.setPos p).bits = s.bits := rfl
@[simp] theorem State.setPos_scan (p : LoopPos) : (s.setPos p).scan = s.scan := rfl
@[simp] theorem State.setPos_restartInterval (p : LoopPos) : (s.setPos p).restartInterval = s.restartInterval := rfl
@[simp] theorem State.setPos_todo (p : LoopPos) : (s.setPos p).todo = s.todo := rfl
@[simp] theorem State.setPos_flags (p : LoopPos) : (s.setPos p).flags = s.flags := rfl
@[simp] theorem State.setPos_rs (p : LoopPos) : (s.setPos p).rs = s.rs := rfl
@[simp] theorem State.setPos_cc (p : LoopPos) : (s.setPos p).cc = s.cc := rfl
@[simp] theorem State.setPos_blk (p : LoopPos) : (s.setPos p).blk = s.blk := rfl
@[simp] theorem State.setPos_unit (p : LoopPos) : (s.setPos p).unit = s.unit := rfl
@[simp] theorem State.setPos_issue (p : LoopPos) : (s.setPos p).issue = s.issue := rfl
@[simp] theorem State.setPos_rowPending (p : LoopPos) : (s.setPos p).rowPending = s.rowPending := rfl
@[simp] theorem State.setPos_port (p : LoopPos) : (s.setPos p).port = s.port := rfl

@[simp] theorem State.setCtl_cfg (c : Control) : (s.setCtl c).cfg = s.cfg := rfl
@[simp] theorem State.setCtl_phase (c : Control) : (s.setCtl c).phase = s.phase := rfl
@[simp] theorem State.setCtl_errCode (c : Control) : (s.setCtl c).errCode = s.errCode := rfl
@[simp] theorem State.setCtl_errClass (c : Control) : (s.setCtl c).errClass = s.errClass := rfl
@[simp] theorem State.setCtl_bytePos (c : Control) : (s.setCtl c).bytePos = s.bytePos := rfl
@[simp] theorem State.setCtl_rowsEmitted (c : Control) : (s.setCtl c).rowsEmitted = s.rowsEmitted := rfl
@[simp] theorem State.setCtl_pos (c : Control) : (s.setCtl c).pos = s.pos := rfl
@[simp] theorem State.setCtl_ctl (c : Control) : (s.setCtl c).ctl = c := rfl
@[simp] theorem State.setCtl_lastMarker (c : Control) : (s.setCtl c).lastMarker = s.lastMarker := rfl
@[simp] theorem State.setCtl_lastMarkerValid (c : Control) : (s.setCtl c).lastMarkerValid = s.lastMarkerValid := rfl
@[simp] theorem State.setCtl_huff (c : Control) : (s.setCtl c).huff = s.huff := rfl
@[simp] theorem State.setCtl_fastAc (c : Control) : (s.setCtl c).fastAc = s.fastAc := rfl
@[simp] theorem State.setCtl_qt (c : Control) : (s.setCtl c).qt = s.qt := rfl
@[simp] theorem State.setCtl_qtLoaded (c : Control) : (s.setCtl c).qtLoaded = s.qtLoaded := rfl
@[simp] theorem State.setCtl_frame (c : Control) : (s.setCtl c).frame = s.frame := rfl
@[simp] theorem State.setCtl_comp (c : Control) : (s.setCtl c).comp = s.comp := rfl
@[simp] theorem State.setCtl_planesAllocated (c : Control) : (s.setCtl c).planesAllocated = s.planesAllocated := rfl
@[simp] theorem State.setCtl_bits (c : Control) : (s.setCtl c).bits = s.bits := rfl
@[simp] theorem State.setCtl_scan (c : Control) : (s.setCtl c).scan = s.scan := rfl
@[simp] theorem State.setCtl_restartInterval (c : Control) : (s.setCtl c).restartInterval = s.restartInterval := rfl
@[simp] theorem State.setCtl_todo (c : Control) : (s.setCtl c).todo = s.todo := rfl
@[simp] theorem State.setCtl_flags (c : Control) : (s.setCtl c).flags = s.flags := rfl
@[simp] theorem State.setCtl_rs (c : Control) : (s.setCtl c).rs = s.rs := rfl
@[simp] theorem State.setCtl_cc (c : Control) : (s.setCtl c).cc = s.cc := rfl
@[simp] theorem State.setCtl_blk (c : Control) : (s.setCtl c).blk = s.blk := rfl
@[simp] theorem State.setCtl_unit (c : Control) : (s.setCtl c).unit = s.unit := rfl
@[simp] theorem State.setCtl_issue (c : Control) : (s.setCtl c).issue = s.issue := rfl
@[simp] theorem State.setCtl_rowPending (c : Control) : (s.setCtl c).rowPending = s.rowPending := rfl
@[simp] theorem State.setCtl_port (c : Control) : (s.setCtl c).port = s.port := rfl

@[simp] theorem State.setFrame_cfg (f : Frame) : (s.setFrame f).cfg = s.cfg := rfl
@[simp] theorem State.setFrame_phase (f : Frame) : (s.setFrame f).phase = s.phase := rfl
@[simp] theorem State.setFrame_errCode (f : Frame) : (s.setFrame f).errCode = s.errCode := rfl
@[simp] theorem State.setFrame_errClass (f : Frame) : (s.setFrame f).errClass = s.errClass := rfl
@[simp] theorem State.setFrame_bytePos (f : Frame) : (s.setFrame f).bytePos = s.bytePos := rfl
@[simp] theorem State.setFrame_rowsEmitted (f : Frame) : (s.setFrame f).rowsEmitted = s.rowsEmitted := rfl
@[simp] theorem State.setFrame_pos (f : Frame) : (s.setFrame f).pos = s.pos := rfl
@[simp] theorem State.setFrame_ctl (f : Frame) : (s.setFrame f).ctl = s.ctl := rfl
@[simp] theorem State.setFrame_lastMarker (f : Frame) : (s.setFrame f).lastMarker = s.lastMarker := rfl
@[simp] theorem State.setFrame_lastMarkerValid (f : Frame) : (s.setFrame f).lastMarkerValid = s.lastMarkerValid := rfl
@[simp] theorem State.setFrame_huff (f : Frame) : (s.setFrame f).huff = s.huff := rfl
@[simp] theorem State.setFrame_fastAc (f : Frame) : (s.setFrame f).fastAc = s.fastAc := rfl
@[simp] theorem State.setFrame_qt (f : Frame) : (s.setFrame f).qt = s.qt := rfl
@[simp] theorem State.setFrame_qtLoaded (f : Frame) : (s.setFrame f).qtLoaded = s.qtLoaded := rfl
@[simp] theorem State.setFrame_frame (f : Frame) : (s.setFrame f).frame = f := rfl
@[simp] theorem State.setFrame_comp (f : Frame) : (s.setFrame f).comp = s.comp := rfl
@[simp] theorem State.setFrame_planesAllocated (f : Frame) : (s.setFrame f).planesAllocated = s.planesAllocated := rfl
@[simp] theorem State.setFrame_bits (f : Frame) : (s.setFrame f).bits = s.bits := rfl
@[simp] theorem State.setFrame_scan (f : Frame) : (s.setFrame f).scan = s.scan := rfl
@[simp] theorem State.setFrame_restartInterval (f : Frame) : (s.setFrame f).restartInterval = s.restartInterval := rfl
@[simp] theorem State.setFrame_todo (f : Frame) : (s.setFrame f).todo = s.todo := rfl
@[simp] theorem State.setFrame_flags (f : Frame) : (s.setFrame f).flags = s.flags := rfl
@[simp] theorem State.setFrame_rs (f : Frame) : (s.setFrame f).rs = s.rs := rfl
@[simp] theorem State.setFrame_cc (f : Frame) : (s.setFrame f).cc = s.cc := rfl
@[simp] theorem State.setFrame_blk (f : Frame) : (s.setFrame f).blk = s.blk := rfl
@[simp] theorem State.setFrame_unit (f : Frame) : (s.setFrame f).unit = s.unit := rfl
@[simp] theorem State.setFrame_issue (f : Frame) : (s.setFrame f).issue = s.issue := rfl
@[simp] theorem State.setFrame_rowPending (f : Frame) : (s.setFrame f).rowPending = s.rowPending := rfl
@[simp] theorem State.setFrame_port (f : Frame) : (s.setFrame f).port = s.port := rfl

@[simp] theorem State.setBits_cfg (b : BitMachine) : (s.setBits b).cfg = s.cfg := rfl
@[simp] theorem State.setBits_phase (b : BitMachine) : (s.setBits b).phase = s.phase := rfl
@[simp] theorem State.setBits_errCode (b : BitMachine) : (s.setBits b).errCode = s.errCode := rfl
@[simp] theorem State.setBits_errClass (b : BitMachine) : (s.setBits b).errClass = s.errClass := rfl
@[simp] theorem State.setBits_bytePos (b : BitMachine) : (s.setBits b).bytePos = s.bytePos := rfl
@[simp] theorem State.setBits_rowsEmitted (b : BitMachine) : (s.setBits b).rowsEmitted = s.rowsEmitted := rfl
@[simp] theorem State.setBits_pos (b : BitMachine) : (s.setBits b).pos = s.pos := rfl
@[simp] theorem State.setBits_ctl (b : BitMachine) : (s.setBits b).ctl = s.ctl := rfl
@[simp] theorem State.setBits_lastMarker (b : BitMachine) : (s.setBits b).lastMarker = s.lastMarker := rfl
@[simp] theorem State.setBits_lastMarkerValid (b : BitMachine) : (s.setBits b).lastMarkerValid = s.lastMarkerValid := rfl
@[simp] theorem State.setBits_huff (b : BitMachine) : (s.setBits b).huff = s.huff := rfl
@[simp] theorem State.setBits_fastAc (b : BitMachine) : (s.setBits b).fastAc = s.fastAc := rfl
@[simp] theorem State.setBits_qt (b : BitMachine) : (s.setBits b).qt = s.qt := rfl
@[simp] theorem State.setBits_qtLoaded (b : BitMachine) : (s.setBits b).qtLoaded = s.qtLoaded := rfl
@[simp] theorem State.setBits_frame (b : BitMachine) : (s.setBits b).frame = s.frame := rfl
@[simp] theorem State.setBits_comp (b : BitMachine) : (s.setBits b).comp = s.comp := rfl
@[simp] theorem State.setBits_planesAllocated (b : BitMachine) : (s.setBits b).planesAllocated = s.planesAllocated := rfl
@[simp] theorem State.setBits_bits (b : BitMachine) : (s.setBits b).bits = b := rfl
@[simp] theorem State.setBits_scan (b : BitMachine) : (s.setBits b).scan = s.scan := rfl
@[simp] theorem State.setBits_restartInterval (b : BitMachine) : (s.setBits b).restartInterval = s.restartInterval := rfl
@[simp] theorem State.setBits_todo (b : BitMachine) : (s.setBits b).todo = s.todo := rfl
@[simp] theorem State.setBits_flags (b : BitMachine) : (s.setBits b).flags = s.flags := rfl
@[simp] theorem State.setBits_rs (b : BitMachine) : (s.setBits b).rs = s.rs := rfl
@[simp] theorem State.setBits_cc (b : BitMachine) : (s.setBits b).cc = s.cc := rfl
@[simp] theorem State.setBits_blk (b : BitMachine) : (s.setBits b).blk = s.blk := rfl
@[simp] theorem State.setBits_unit (b : BitMachine) : (s.setBits b).unit = s.unit := rfl
@[simp] theorem State.setBits_issue (b : BitMachine) : (s.setBits b).issue = s.issue := rfl
@[simp] theorem State.setBits_rowPending (b : BitMachine) : (s.setBits b).rowPending = s.rowPending := rfl
@[simp] theorem State.setBits_port (b : BitMachine) : (s.setBits b).port = s.port := rfl

@[simp] theorem State.setScan_cfg (c : Scan) : (s.setScan c).cfg = s.cfg := rfl
@[simp] theorem State.setScan_phase (c : Scan) : (s.setScan c).phase = s.phase := rfl
@[simp] theorem State.setScan_errCode (c : Scan) : (s.setScan c).errCode = s.errCode := rfl
@[simp] theorem State.setScan_errClass (c : Scan) : (s.setScan c).errClass = s.errClass := rfl
@[simp] theorem State.setScan_bytePos (c : Scan) : (s.setScan c).bytePos = s.bytePos := rfl
@[simp] theorem State.setScan_rowsEmitted (c : Scan) : (s.setScan c).rowsEmitted = s.rowsEmitted := rfl
@[simp] theorem State.setScan_pos (c : Scan) : (s.setScan c).pos = s.pos := rfl
@[simp] theorem State.setScan_ctl (c : Scan) : (s.setScan c).ctl = s.ctl := rfl
@[simp] theorem State.setScan_lastMarker (c : Scan) : (s.setScan c).lastMarker = s.lastMarker := rfl
@[simp] theorem State.setScan_lastMarkerValid (c : Scan) : (s.setScan c).lastMarkerValid = s.lastMarkerValid := rfl
@[simp] theorem State.setScan_huff (c : Scan) : (s.setScan c).huff = s.huff := rfl
@[simp] theorem State.setScan_fastAc (c : Scan) : (s.setScan c).fastAc = s.fastAc := rfl
@[simp] theorem State.setScan_qt (c : Scan) : (s.setScan c).qt = s.qt := rfl
@[simp] theorem State.setScan_qtLoaded (c : Scan) : (s.setScan c).qtLoaded = s.qtLoaded := rfl
@[simp] theorem State.setScan_frame (c : Scan) : (s.setScan c).frame = s.frame := rfl
@[simp] theorem State.setScan_comp (c : Scan) : (s.setScan c).comp = s.comp := rfl
@[simp] theorem State.setScan_planesAllocated (c : Scan) : (s.setScan c).planesAllocated = s.planesAllocated := rfl
@[simp] theorem State.setScan_bits (c : Scan) : (s.setScan c).bits = s.bits := rfl
@[simp] theorem State.setScan_scan (c : Scan) : (s.setScan c).scan = c := rfl
@[simp] theorem State.setScan_restartInterval (c : Scan) : (s.setScan c).restartInterval = s.restartInterval := rfl
@[simp] theorem State.setScan_todo (c : Scan) : (s.setScan c).todo = s.todo := rfl
@[simp] theorem State.setScan_flags (c : Scan) : (s.setScan c).flags = s.flags := rfl
@[simp] theorem State.setScan_rs (c : Scan) : (s.setScan c).rs = s.rs := rfl
@[simp] theorem State.setScan_cc (c : Scan) : (s.setScan c).cc = s.cc := rfl
@[simp] theorem State.setScan_blk (c : Scan) : (s.setScan c).blk = s.blk := rfl
@[simp] theorem State.setScan_unit (c : Scan) : (s.setScan c).unit = s.unit := rfl
@[simp] theorem State.setScan_issue (c : Scan) : (s.setScan c).issue = s.issue := rfl
@[simp] theorem State.setScan_rowPending (c : Scan) : (s.setScan c).rowPending = s.rowPending := rfl
@[simp] theorem State.setScan_port (c : Scan) : (s.setScan c).port = s.port := rfl

@[simp] theorem State.setFlags_cfg (f : Flags) : (s.setFlags f).cfg = s.cfg := rfl
@[simp] theorem State.setFlags_phase (f : Flags) : (s.setFlags f).phase = s.phase := rfl
@[simp] theorem State.setFlags_errCode (f : Flags) : (s.setFlags f).errCode = s.errCode := rfl
@[simp] theorem State.setFlags_errClass (f : Flags) : (s.setFlags f).errClass = s.errClass := rfl
@[simp] theorem State.setFlags_bytePos (f : Flags) : (s.setFlags f).bytePos = s.bytePos := rfl
@[simp] theorem State.setFlags_rowsEmitted (f : Flags) : (s.setFlags f).rowsEmitted = s.rowsEmitted := rfl
@[simp] theorem State.setFlags_pos (f : Flags) : (s.setFlags f).pos = s.pos := rfl
@[simp] theorem State.setFlags_ctl (f : Flags) : (s.setFlags f).ctl = s.ctl := rfl
@[simp] theorem State.setFlags_lastMarker (f : Flags) : (s.setFlags f).lastMarker = s.lastMarker := rfl
@[simp] theorem State.setFlags_lastMarkerValid (f : Flags) : (s.setFlags f).lastMarkerValid = s.lastMarkerValid := rfl
@[simp] theorem State.setFlags_huff (f : Flags) : (s.setFlags f).huff = s.huff := rfl
@[simp] theorem State.setFlags_fastAc (f : Flags) : (s.setFlags f).fastAc = s.fastAc := rfl
@[simp] theorem State.setFlags_qt (f : Flags) : (s.setFlags f).qt = s.qt := rfl
@[simp] theorem State.setFlags_qtLoaded (f : Flags) : (s.setFlags f).qtLoaded = s.qtLoaded := rfl
@[simp] theorem State.setFlags_frame (f : Flags) : (s.setFlags f).frame = s.frame := rfl
@[simp] theorem State.setFlags_comp (f : Flags) : (s.setFlags f).comp = s.comp := rfl
@[simp] theorem State.setFlags_planesAllocated (f : Flags) : (s.setFlags f).planesAllocated = s.planesAllocated := rfl
@[simp] theorem State.setFlags_bits (f : Flags) : (s.setFlags f).bits = s.bits := rfl
@[simp] theorem State.setFlags_scan (f : Flags) : (s.setFlags f).scan = s.scan := rfl
@[simp] theorem State.setFlags_restartInterval (f : Flags) : (s.setFlags f).restartInterval = s.restartInterval := rfl
@[simp] theorem State.setFlags_todo (f : Flags) : (s.setFlags f).todo = s.todo := rfl
@[simp] theorem State.setFlags_flags (f : Flags) : (s.setFlags f).flags = f := rfl
@[simp] theorem State.setFlags_rs (f : Flags) : (s.setFlags f).rs = s.rs := rfl
@[simp] theorem State.setFlags_cc (f : Flags) : (s.setFlags f).cc = s.cc := rfl
@[simp] theorem State.setFlags_blk (f : Flags) : (s.setFlags f).blk = s.blk := rfl
@[simp] theorem State.setFlags_unit (f : Flags) : (s.setFlags f).unit = s.unit := rfl
@[simp] theorem State.setFlags_issue (f : Flags) : (s.setFlags f).issue = s.issue := rfl
@[simp] theorem State.setFlags_rowPending (f : Flags) : (s.setFlags f).rowPending = s.rowPending := rfl
@[simp] theorem State.setFlags_port (f : Flags) : (s.setFlags f).port = s.port := rfl

@[simp] theorem State.setBlk_cfg (b : BlockRegs) : (s.setBlk b).cfg = s.cfg := rfl
@[simp] theorem State.setBlk_phase (b : BlockRegs) : (s.setBlk b).phase = s.phase := rfl
@[simp] theorem State.setBlk_errCode (b : BlockRegs) : (s.setBlk b).errCode = s.errCode := rfl
@[simp] theorem State.setBlk_errClass (b : BlockRegs) : (s.setBlk b).errClass = s.errClass := rfl
@[simp] theorem State.setBlk_bytePos (b : BlockRegs) : (s.setBlk b).bytePos = s.bytePos := rfl
@[simp] theorem State.setBlk_rowsEmitted (b : BlockRegs) : (s.setBlk b).rowsEmitted = s.rowsEmitted := rfl
@[simp] theorem State.setBlk_pos (b : BlockRegs) : (s.setBlk b).pos = s.pos := rfl
@[simp] theorem State.setBlk_ctl (b : BlockRegs) : (s.setBlk b).ctl = s.ctl := rfl
@[simp] theorem State.setBlk_lastMarker (b : BlockRegs) : (s.setBlk b).lastMarker = s.lastMarker := rfl
@[simp] theorem State.setBlk_lastMarkerValid (b : BlockRegs) : (s.setBlk b).lastMarkerValid = s.lastMarkerValid := rfl
@[simp] theorem State.setBlk_huff (b : BlockRegs) : (s.setBlk b).huff = s.huff := rfl
@[simp] theorem State.setBlk_fastAc (b : BlockRegs) : (s.setBlk b).fastAc = s.fastAc := rfl
@[simp] theorem State.setBlk_qt (b : BlockRegs) : (s.setBlk b).qt = s.qt := rfl
@[simp] theorem State.setBlk_qtLoaded (b : BlockRegs) : (s.setBlk b).qtLoaded = s.qtLoaded := rfl
@[simp] theorem State.setBlk_frame (b : BlockRegs) : (s.setBlk b).frame = s.frame := rfl
@[simp] theorem State.setBlk_comp (b : BlockRegs) : (s.setBlk b).comp = s.comp := rfl
@[simp] theorem State.setBlk_planesAllocated (b : BlockRegs) : (s.setBlk b).planesAllocated = s.planesAllocated := rfl
@[simp] theorem State.setBlk_bits (b : BlockRegs) : (s.setBlk b).bits = s.bits := rfl
@[simp] theorem State.setBlk_scan (b : BlockRegs) : (s.setBlk b).scan = s.scan := rfl
@[simp] theorem State.setBlk_restartInterval (b : BlockRegs) : (s.setBlk b).restartInterval = s.restartInterval := rfl
@[simp] theorem State.setBlk_todo (b : BlockRegs) : (s.setBlk b).todo = s.todo := rfl
@[simp] theorem State.setBlk_flags (b : BlockRegs) : (s.setBlk b).flags = s.flags := rfl
@[simp] theorem State.setBlk_rs (b : BlockRegs) : (s.setBlk b).rs = s.rs := rfl
@[simp] theorem State.setBlk_cc (b : BlockRegs) : (s.setBlk b).cc = s.cc := rfl
@[simp] theorem State.setBlk_blk (b : BlockRegs) : (s.setBlk b).blk = b := rfl
@[simp] theorem State.setBlk_unit (b : BlockRegs) : (s.setBlk b).unit = s.unit := rfl
@[simp] theorem State.setBlk_issue (b : BlockRegs) : (s.setBlk b).issue = s.issue := rfl
@[simp] theorem State.setBlk_rowPending (b : BlockRegs) : (s.setBlk b).rowPending = s.rowPending := rfl
@[simp] theorem State.setBlk_port (b : BlockRegs) : (s.setBlk b).port = s.port := rfl

@[simp] theorem State.setUnit_cfg (u : UnitPort) : (s.setUnit u).cfg = s.cfg := rfl
@[simp] theorem State.setUnit_phase (u : UnitPort) : (s.setUnit u).phase = s.phase := rfl
@[simp] theorem State.setUnit_errCode (u : UnitPort) : (s.setUnit u).errCode = s.errCode := rfl
@[simp] theorem State.setUnit_errClass (u : UnitPort) : (s.setUnit u).errClass = s.errClass := rfl
@[simp] theorem State.setUnit_bytePos (u : UnitPort) : (s.setUnit u).bytePos = s.bytePos := rfl
@[simp] theorem State.setUnit_rowsEmitted (u : UnitPort) : (s.setUnit u).rowsEmitted = s.rowsEmitted := rfl
@[simp] theorem State.setUnit_pos (u : UnitPort) : (s.setUnit u).pos = s.pos := rfl
@[simp] theorem State.setUnit_ctl (u : UnitPort) : (s.setUnit u).ctl = s.ctl := rfl
@[simp] theorem State.setUnit_lastMarker (u : UnitPort) : (s.setUnit u).lastMarker = s.lastMarker := rfl
@[simp] theorem State.setUnit_lastMarkerValid (u : UnitPort) : (s.setUnit u).lastMarkerValid = s.lastMarkerValid := rfl
@[simp] theorem State.setUnit_huff (u : UnitPort) : (s.setUnit u).huff = s.huff := rfl
@[simp] theorem State.setUnit_fastAc (u : UnitPort) : (s.setUnit u).fastAc = s.fastAc := rfl
@[simp] theorem State.setUnit_qt (u : UnitPort) : (s.setUnit u).qt = s.qt := rfl
@[simp] theorem State.setUnit_qtLoaded (u : UnitPort) : (s.setUnit u).qtLoaded = s.qtLoaded := rfl
@[simp] theorem State.setUnit_frame (u : UnitPort) : (s.setUnit u).frame = s.frame := rfl
@[simp] theorem State.setUnit_comp (u : UnitPort) : (s.setUnit u).comp = s.comp := rfl
@[simp] theorem State.setUnit_planesAllocated (u : UnitPort) : (s.setUnit u).planesAllocated = s.planesAllocated := rfl
@[simp] theorem State.setUnit_bits (u : UnitPort) : (s.setUnit u).bits = s.bits := rfl
@[simp] theorem State.setUnit_scan (u : UnitPort) : (s.setUnit u).scan = s.scan := rfl
@[simp] theorem State.setUnit_restartInterval (u : UnitPort) : (s.setUnit u).restartInterval = s.restartInterval := rfl
@[simp] theorem State.setUnit_todo (u : UnitPort) : (s.setUnit u).todo = s.todo := rfl
@[simp] theorem State.setUnit_flags (u : UnitPort) : (s.setUnit u).flags = s.flags := rfl
@[simp] theorem State.setUnit_rs (u : UnitPort) : (s.setUnit u).rs = s.rs := rfl
@[simp] theorem State.setUnit_cc (u : UnitPort) : (s.setUnit u).cc = s.cc := rfl
@[simp] theorem State.setUnit_blk (u : UnitPort) : (s.setUnit u).blk = s.blk := rfl
@[simp] theorem State.setUnit_unit (u : UnitPort) : (s.setUnit u).unit = u := rfl
@[simp] theorem State.setUnit_issue (u : UnitPort) : (s.setUnit u).issue = s.issue := rfl
@[simp] theorem State.setUnit_rowPending (u : UnitPort) : (s.setUnit u).rowPending = s.rowPending := rfl
@[simp] theorem State.setUnit_port (u : UnitPort) : (s.setUnit u).port = s.port := rfl

@[simp] theorem State.setPort_cfg (p : Port) : (s.setPort p).cfg = s.cfg := rfl
@[simp] theorem State.setPort_phase (p : Port) : (s.setPort p).phase = s.phase := rfl
@[simp] theorem State.setPort_errCode (p : Port) : (s.setPort p).errCode = s.errCode := rfl
@[simp] theorem State.setPort_errClass (p : Port) : (s.setPort p).errClass = s.errClass := rfl
@[simp] theorem State.setPort_bytePos (p : Port) : (s.setPort p).bytePos = s.bytePos := rfl
@[simp] theorem State.setPort_rowsEmitted (p : Port) : (s.setPort p).rowsEmitted = s.rowsEmitted := rfl
@[simp] theorem State.setPort_pos (p : Port) : (s.setPort p).pos = s.pos := rfl
@[simp] theorem State.setPort_ctl (p : Port) : (s.setPort p).ctl = s.ctl := rfl
@[simp] theorem State.setPort_lastMarker (p : Port) : (s.setPort p).lastMarker = s.lastMarker := rfl
@[simp] theorem State.setPort_lastMarkerValid (p : Port) : (s.setPort p).lastMarkerValid = s.lastMarkerValid := rfl
@[simp] theorem State.setPort_huff (p : Port) : (s.setPort p).huff = s.huff := rfl
@[simp] theorem State.setPort_fastAc (p : Port) : (s.setPort p).fastAc = s.fastAc := rfl
@[simp] theorem State.setPort_qt (p : Port) : (s.setPort p).qt = s.qt := rfl
@[simp] theorem State.setPort_qtLoaded (p : Port) : (s.setPort p).qtLoaded = s.qtLoaded := rfl
@[simp] theorem State.setPort_frame (p : Port) : (s.setPort p).frame = s.frame := rfl
@[simp] theorem State.setPort_comp (p : Port) : (s.setPort p).comp = s.comp := rfl
@[simp] theorem State.setPort_planesAllocated (p : Port) : (s.setPort p).planesAllocated = s.planesAllocated := rfl
@[simp] theorem State.setPort_bits (p : Port) : (s.setPort p).bits = s.bits := rfl
@[simp] theorem State.setPort_scan (p : Port) : (s.setPort p).scan = s.scan := rfl
@[simp] theorem State.setPort_restartInterval (p : Port) : (s.setPort p).restartInterval = s.restartInterval := rfl
@[simp] theorem State.setPort_todo (p : Port) : (s.setPort p).todo = s.todo := rfl
@[simp] theorem State.setPort_flags (p : Port) : (s.setPort p).flags = s.flags := rfl
@[simp] theorem State.setPort_rs (p : Port) : (s.setPort p).rs = s.rs := rfl
@[simp] theorem State.setPort_cc (p : Port) : (s.setPort p).cc = s.cc := rfl
@[simp] theorem State.setPort_blk (p : Port) : (s.setPort p).blk = s.blk := rfl
@[simp] theorem State.setPort_unit (p : Port) : (s.setPort p).unit = s.unit := rfl
@[simp] theorem State.setPort_issue (p : Port) : (s.setPort p).issue = s.issue := rfl
@[simp] theorem State.setPort_rowPending (p : Port) : (s.setPort p).rowPending = s.rowPending := rfl
@[simp] theorem State.setPort_port (p : Port) : (s.setPort p).port = p := rfl

@[simp] theorem State.setTodo_cfg (v : BitVec 32) : (s.setTodo v).cfg = s.cfg := rfl
@[simp] theorem State.setTodo_phase (v : BitVec 32) : (s.setTodo v).phase = s.phase := rfl
@[simp] theorem State.setTodo_errCode (v : BitVec 32) : (s.setTodo v).errCode = s.errCode := rfl
@[simp] theorem State.setTodo_errClass (v : BitVec 32) : (s.setTodo v).errClass = s.errClass := rfl
@[simp] theorem State.setTodo_bytePos (v : BitVec 32) : (s.setTodo v).bytePos = s.bytePos := rfl
@[simp] theorem State.setTodo_rowsEmitted (v : BitVec 32) : (s.setTodo v).rowsEmitted = s.rowsEmitted := rfl
@[simp] theorem State.setTodo_pos (v : BitVec 32) : (s.setTodo v).pos = s.pos := rfl
@[simp] theorem State.setTodo_ctl (v : BitVec 32) : (s.setTodo v).ctl = s.ctl := rfl
@[simp] theorem State.setTodo_lastMarker (v : BitVec 32) : (s.setTodo v).lastMarker = s.lastMarker := rfl
@[simp] theorem State.setTodo_lastMarkerValid (v : BitVec 32) : (s.setTodo v).lastMarkerValid = s.lastMarkerValid := rfl
@[simp] theorem State.setTodo_huff (v : BitVec 32) : (s.setTodo v).huff = s.huff := rfl
@[simp] theorem State.setTodo_fastAc (v : BitVec 32) : (s.setTodo v).fastAc = s.fastAc := rfl
@[simp] theorem State.setTodo_qt (v : BitVec 32) : (s.setTodo v).qt = s.qt := rfl
@[simp] theorem State.setTodo_qtLoaded (v : BitVec 32) : (s.setTodo v).qtLoaded = s.qtLoaded := rfl
@[simp] theorem State.setTodo_frame (v : BitVec 32) : (s.setTodo v).frame = s.frame := rfl
@[simp] theorem State.setTodo_comp (v : BitVec 32) : (s.setTodo v).comp = s.comp := rfl
@[simp] theorem State.setTodo_planesAllocated (v : BitVec 32) : (s.setTodo v).planesAllocated = s.planesAllocated := rfl
@[simp] theorem State.setTodo_bits (v : BitVec 32) : (s.setTodo v).bits = s.bits := rfl
@[simp] theorem State.setTodo_scan (v : BitVec 32) : (s.setTodo v).scan = s.scan := rfl
@[simp] theorem State.setTodo_restartInterval (v : BitVec 32) : (s.setTodo v).restartInterval = s.restartInterval := rfl
@[simp] theorem State.setTodo_todo (v : BitVec 32) : (s.setTodo v).todo = v := rfl
@[simp] theorem State.setTodo_flags (v : BitVec 32) : (s.setTodo v).flags = s.flags := rfl
@[simp] theorem State.setTodo_rs (v : BitVec 32) : (s.setTodo v).rs = s.rs := rfl
@[simp] theorem State.setTodo_cc (v : BitVec 32) : (s.setTodo v).cc = s.cc := rfl
@[simp] theorem State.setTodo_blk (v : BitVec 32) : (s.setTodo v).blk = s.blk := rfl
@[simp] theorem State.setTodo_unit (v : BitVec 32) : (s.setTodo v).unit = s.unit := rfl
@[simp] theorem State.setTodo_issue (v : BitVec 32) : (s.setTodo v).issue = s.issue := rfl
@[simp] theorem State.setTodo_rowPending (v : BitVec 32) : (s.setTodo v).rowPending = s.rowPending := rfl
@[simp] theorem State.setTodo_port (v : BitVec 32) : (s.setTodo v).port = s.port := rfl

@[simp] theorem State.setComp_cfg (c : Fin 4) (r : Comp) : (s.setComp c r).cfg = s.cfg := rfl
@[simp] theorem State.setComp_phase (c : Fin 4) (r : Comp) : (s.setComp c r).phase = s.phase := rfl
@[simp] theorem State.setComp_errCode (c : Fin 4) (r : Comp) : (s.setComp c r).errCode = s.errCode := rfl
@[simp] theorem State.setComp_errClass (c : Fin 4) (r : Comp) : (s.setComp c r).errClass = s.errClass := rfl
@[simp] theorem State.setComp_bytePos (c : Fin 4) (r : Comp) : (s.setComp c r).bytePos = s.bytePos := rfl
@[simp] theorem State.setComp_rowsEmitted (c : Fin 4) (r : Comp) : (s.setComp c r).rowsEmitted = s.rowsEmitted := rfl
@[simp] theorem State.setComp_pos (c : Fin 4) (r : Comp) : (s.setComp c r).pos = s.pos := rfl
@[simp] theorem State.setComp_ctl (c : Fin 4) (r : Comp) : (s.setComp c r).ctl = s.ctl := rfl
@[simp] theorem State.setComp_lastMarker (c : Fin 4) (r : Comp) : (s.setComp c r).lastMarker = s.lastMarker := rfl
@[simp] theorem State.setComp_lastMarkerValid (c : Fin 4) (r : Comp) : (s.setComp c r).lastMarkerValid = s.lastMarkerValid := rfl
@[simp] theorem State.setComp_huff (c : Fin 4) (r : Comp) : (s.setComp c r).huff = s.huff := rfl
@[simp] theorem State.setComp_fastAc (c : Fin 4) (r : Comp) : (s.setComp c r).fastAc = s.fastAc := rfl
@[simp] theorem State.setComp_qt (c : Fin 4) (r : Comp) : (s.setComp c r).qt = s.qt := rfl
@[simp] theorem State.setComp_qtLoaded (c : Fin 4) (r : Comp) : (s.setComp c r).qtLoaded = s.qtLoaded := rfl
@[simp] theorem State.setComp_frame (c : Fin 4) (r : Comp) : (s.setComp c r).frame = s.frame := rfl
@[simp] theorem State.setComp_comp (c : Fin 4) (r : Comp) : (s.setComp c r).comp = s.comp.set c.val r c.isLt := rfl
@[simp] theorem State.setComp_planesAllocated (c : Fin 4) (r : Comp) : (s.setComp c r).planesAllocated = s.planesAllocated := rfl
@[simp] theorem State.setComp_bits (c : Fin 4) (r : Comp) : (s.setComp c r).bits = s.bits := rfl
@[simp] theorem State.setComp_scan (c : Fin 4) (r : Comp) : (s.setComp c r).scan = s.scan := rfl
@[simp] theorem State.setComp_restartInterval (c : Fin 4) (r : Comp) : (s.setComp c r).restartInterval = s.restartInterval := rfl
@[simp] theorem State.setComp_todo (c : Fin 4) (r : Comp) : (s.setComp c r).todo = s.todo := rfl
@[simp] theorem State.setComp_flags (c : Fin 4) (r : Comp) : (s.setComp c r).flags = s.flags := rfl
@[simp] theorem State.setComp_rs (c : Fin 4) (r : Comp) : (s.setComp c r).rs = s.rs := rfl
@[simp] theorem State.setComp_cc (c : Fin 4) (r : Comp) : (s.setComp c r).cc = s.cc := rfl
@[simp] theorem State.setComp_blk (c : Fin 4) (r : Comp) : (s.setComp c r).blk = s.blk := rfl
@[simp] theorem State.setComp_unit (c : Fin 4) (r : Comp) : (s.setComp c r).unit = s.unit := rfl
@[simp] theorem State.setComp_issue (c : Fin 4) (r : Comp) : (s.setComp c r).issue = s.issue := rfl
@[simp] theorem State.setComp_rowPending (c : Fin 4) (r : Comp) : (s.setComp c r).rowPending = s.rowPending := rfl
@[simp] theorem State.setComp_port (c : Fin 4) (r : Comp) : (s.setComp c r).port = s.port := rfl

@[simp] theorem State.setRs_cfg (c : Fin 4) (r : Resampler) : (s.setRs c r).cfg = s.cfg := rfl
@[simp] theorem State.setRs_phase (c : Fin 4) (r : Resampler) : (s.setRs c r).phase = s.phase := rfl
@[simp] theorem State.setRs_errCode (c : Fin 4) (r : Resampler) : (s.setRs c r).errCode = s.errCode := rfl
@[simp] theorem State.setRs_errClass (c : Fin 4) (r : Resampler) : (s.setRs c r).errClass = s.errClass := rfl
@[simp] theorem State.setRs_bytePos (c : Fin 4) (r : Resampler) : (s.setRs c r).bytePos = s.bytePos := rfl
@[simp] theorem State.setRs_rowsEmitted (c : Fin 4) (r : Resampler) : (s.setRs c r).rowsEmitted = s.rowsEmitted := rfl
@[simp] theorem State.setRs_pos (c : Fin 4) (r : Resampler) : (s.setRs c r).pos = s.pos := rfl
@[simp] theorem State.setRs_ctl (c : Fin 4) (r : Resampler) : (s.setRs c r).ctl = s.ctl := rfl
@[simp] theorem State.setRs_lastMarker (c : Fin 4) (r : Resampler) : (s.setRs c r).lastMarker = s.lastMarker := rfl
@[simp] theorem State.setRs_lastMarkerValid (c : Fin 4) (r : Resampler) : (s.setRs c r).lastMarkerValid = s.lastMarkerValid := rfl
@[simp] theorem State.setRs_huff (c : Fin 4) (r : Resampler) : (s.setRs c r).huff = s.huff := rfl
@[simp] theorem State.setRs_fastAc (c : Fin 4) (r : Resampler) : (s.setRs c r).fastAc = s.fastAc := rfl
@[simp] theorem State.setRs_qt (c : Fin 4) (r : Resampler) : (s.setRs c r).qt = s.qt := rfl
@[simp] theorem State.setRs_qtLoaded (c : Fin 4) (r : Resampler) : (s.setRs c r).qtLoaded = s.qtLoaded := rfl
@[simp] theorem State.setRs_frame (c : Fin 4) (r : Resampler) : (s.setRs c r).frame = s.frame := rfl
@[simp] theorem State.setRs_comp (c : Fin 4) (r : Resampler) : (s.setRs c r).comp = s.comp := rfl
@[simp] theorem State.setRs_planesAllocated (c : Fin 4) (r : Resampler) : (s.setRs c r).planesAllocated = s.planesAllocated := rfl
@[simp] theorem State.setRs_bits (c : Fin 4) (r : Resampler) : (s.setRs c r).bits = s.bits := rfl
@[simp] theorem State.setRs_scan (c : Fin 4) (r : Resampler) : (s.setRs c r).scan = s.scan := rfl
@[simp] theorem State.setRs_restartInterval (c : Fin 4) (r : Resampler) : (s.setRs c r).restartInterval = s.restartInterval := rfl
@[simp] theorem State.setRs_todo (c : Fin 4) (r : Resampler) : (s.setRs c r).todo = s.todo := rfl
@[simp] theorem State.setRs_flags (c : Fin 4) (r : Resampler) : (s.setRs c r).flags = s.flags := rfl
@[simp] theorem State.setRs_rs (c : Fin 4) (r : Resampler) : (s.setRs c r).rs = s.rs.set c.val r c.isLt := rfl
@[simp] theorem State.setRs_cc (c : Fin 4) (r : Resampler) : (s.setRs c r).cc = s.cc := rfl
@[simp] theorem State.setRs_blk (c : Fin 4) (r : Resampler) : (s.setRs c r).blk = s.blk := rfl
@[simp] theorem State.setRs_unit (c : Fin 4) (r : Resampler) : (s.setRs c r).unit = s.unit := rfl
@[simp] theorem State.setRs_issue (c : Fin 4) (r : Resampler) : (s.setRs c r).issue = s.issue := rfl
@[simp] theorem State.setRs_rowPending (c : Fin 4) (r : Resampler) : (s.setRs c r).rowPending = s.rowPending := rfl
@[simp] theorem State.setRs_port (c : Fin 4) (r : Resampler) : (s.setRs c r).port = s.port := rfl

@[simp] theorem State.setHuff_cfg (tc : Fin 2) (th : Fin 4) (T : HuffTable) : (s.setHuff tc th T).cfg = s.cfg := rfl
@[simp] theorem State.setHuff_phase (tc : Fin 2) (th : Fin 4) (T : HuffTable) : (s.setHuff tc th T).phase = s.phase := rfl
@[simp] theorem State.setHuff_errCode (tc : Fin 2) (th : Fin 4) (T : HuffTable) : (s.setHuff tc th T).errCode = s.errCode := rfl
@[simp] theorem State.setHuff_errClass (tc : Fin 2) (th : Fin 4) (T : HuffTable) : (s.setHuff tc th T).errClass = s.errClass := rfl
@[simp] theorem State.setHuff_bytePos (tc : Fin 2) (th : Fin 4) (T : HuffTable) : (s.setHuff tc th T).bytePos = s.bytePos := rfl
@[simp] theorem State.setHuff_rowsEmitted (tc : Fin 2) (th : Fin 4) (T : HuffTable) : (s.setHuff tc th T).rowsEmitted = s.rowsEmitted := rfl
@[simp] theorem State.setHuff_pos (tc : Fin 2) (th : Fin 4) (T : HuffTable) : (s.setHuff tc th T).pos = s.pos := rfl
@[simp] theorem State.setHuff_ctl (tc : Fin 2) (th : Fin 4) (T : HuffTable) : (s.setHuff tc th T).ctl = s.ctl := rfl
@[simp] theorem State.setHuff_lastMarker (tc : Fin 2) (th : Fin 4) (T : HuffTable) : (s.setHuff tc th T).lastMarker = s.lastMarker := rfl
@[simp] theorem State.setHuff_lastMarkerValid (tc : Fin 2) (th : Fin 4) (T : HuffTable) : (s.setHuff tc th T).lastMarkerValid = s.lastMarkerValid := rfl
@[simp] theorem State.setHuff_huff (tc : Fin 2) (th : Fin 4) (T : HuffTable) : (s.setHuff tc th T).huff = s.huff.set tc.val ((s.huff.get tc).set th.val T th.isLt) tc.isLt := rfl
@[simp] theorem State.setHuff_fastAc (tc : Fin 2) (th : Fin 4) (T : HuffTable) : (s.setHuff tc th T).fastAc = s.fastAc := rfl
@[simp] theorem State.setHuff_qt (tc : Fin 2) (th : Fin 4) (T : HuffTable) : (s.setHuff tc th T).qt = s.qt := rfl
@[simp] theorem State.setHuff_qtLoaded (tc : Fin 2) (th : Fin 4) (T : HuffTable) : (s.setHuff tc th T).qtLoaded = s.qtLoaded := rfl
@[simp] theorem State.setHuff_frame (tc : Fin 2) (th : Fin 4) (T : HuffTable) : (s.setHuff tc th T).frame = s.frame := rfl
@[simp] theorem State.setHuff_comp (tc : Fin 2) (th : Fin 4) (T : HuffTable) : (s.setHuff tc th T).comp = s.comp := rfl
@[simp] theorem State.setHuff_planesAllocated (tc : Fin 2) (th : Fin 4) (T : HuffTable) : (s.setHuff tc th T).planesAllocated = s.planesAllocated := rfl
@[simp] theorem State.setHuff_bits (tc : Fin 2) (th : Fin 4) (T : HuffTable) : (s.setHuff tc th T).bits = s.bits := rfl
@[simp] theorem State.setHuff_scan (tc : Fin 2) (th : Fin 4) (T : HuffTable) : (s.setHuff tc th T).scan = s.scan := rfl
@[simp] theorem State.setHuff_restartInterval (tc : Fin 2) (th : Fin 4) (T : HuffTable) : (s.setHuff tc th T).restartInterval = s.restartInterval := rfl
@[simp] theorem State.setHuff_todo (tc : Fin 2) (th : Fin 4) (T : HuffTable) : (s.setHuff tc th T).todo = s.todo := rfl
@[simp] theorem State.setHuff_flags (tc : Fin 2) (th : Fin 4) (T : HuffTable) : (s.setHuff tc th T).flags = s.flags := rfl
@[simp] theorem State.setHuff_rs (tc : Fin 2) (th : Fin 4) (T : HuffTable) : (s.setHuff tc th T).rs = s.rs := rfl
@[simp] theorem State.setHuff_cc (tc : Fin 2) (th : Fin 4) (T : HuffTable) : (s.setHuff tc th T).cc = s.cc := rfl
@[simp] theorem State.setHuff_blk (tc : Fin 2) (th : Fin 4) (T : HuffTable) : (s.setHuff tc th T).blk = s.blk := rfl
@[simp] theorem State.setHuff_unit (tc : Fin 2) (th : Fin 4) (T : HuffTable) : (s.setHuff tc th T).unit = s.unit := rfl
@[simp] theorem State.setHuff_issue (tc : Fin 2) (th : Fin 4) (T : HuffTable) : (s.setHuff tc th T).issue = s.issue := rfl
@[simp] theorem State.setHuff_rowPending (tc : Fin 2) (th : Fin 4) (T : HuffTable) : (s.setHuff tc th T).rowPending = s.rowPending := rfl
@[simp] theorem State.setHuff_port (tc : Fin 2) (th : Fin 4) (T : HuffTable) : (s.setHuff tc th T).port = s.port := rfl

@[simp] theorem State.setFastAc_cfg (th : Fin 4) (f : Vector (BitVec 16) 512) : (s.setFastAc th f).cfg = s.cfg := rfl
@[simp] theorem State.setFastAc_phase (th : Fin 4) (f : Vector (BitVec 16) 512) : (s.setFastAc th f).phase = s.phase := rfl
@[simp] theorem State.setFastAc_errCode (th : Fin 4) (f : Vector (BitVec 16) 512) : (s.setFastAc th f).errCode = s.errCode := rfl
@[simp] theorem State.setFastAc_errClass (th : Fin 4) (f : Vector (BitVec 16) 512) : (s.setFastAc th f).errClass = s.errClass := rfl
@[simp] theorem State.setFastAc_bytePos (th : Fin 4) (f : Vector (BitVec 16) 512) : (s.setFastAc th f).bytePos = s.bytePos := rfl
@[simp] theorem State.setFastAc_rowsEmitted (th : Fin 4) (f : Vector (BitVec 16) 512) : (s.setFastAc th f).rowsEmitted = s.rowsEmitted := rfl
@[simp] theorem State.setFastAc_pos (th : Fin 4) (f : Vector (BitVec 16) 512) : (s.setFastAc th f).pos = s.pos := rfl
@[simp] theorem State.setFastAc_ctl (th : Fin 4) (f : Vector (BitVec 16) 512) : (s.setFastAc th f).ctl = s.ctl := rfl
@[simp] theorem State.setFastAc_lastMarker (th : Fin 4) (f : Vector (BitVec 16) 512) : (s.setFastAc th f).lastMarker = s.lastMarker := rfl
@[simp] theorem State.setFastAc_lastMarkerValid (th : Fin 4) (f : Vector (BitVec 16) 512) : (s.setFastAc th f).lastMarkerValid = s.lastMarkerValid := rfl
@[simp] theorem State.setFastAc_huff (th : Fin 4) (f : Vector (BitVec 16) 512) : (s.setFastAc th f).huff = s.huff := rfl
@[simp] theorem State.setFastAc_fastAc (th : Fin 4) (f : Vector (BitVec 16) 512) : (s.setFastAc th f).fastAc = s.fastAc.set th.val f th.isLt := rfl
@[simp] theorem State.setFastAc_qt (th : Fin 4) (f : Vector (BitVec 16) 512) : (s.setFastAc th f).qt = s.qt := rfl
@[simp] theorem State.setFastAc_qtLoaded (th : Fin 4) (f : Vector (BitVec 16) 512) : (s.setFastAc th f).qtLoaded = s.qtLoaded := rfl
@[simp] theorem State.setFastAc_frame (th : Fin 4) (f : Vector (BitVec 16) 512) : (s.setFastAc th f).frame = s.frame := rfl
@[simp] theorem State.setFastAc_comp (th : Fin 4) (f : Vector (BitVec 16) 512) : (s.setFastAc th f).comp = s.comp := rfl
@[simp] theorem State.setFastAc_planesAllocated (th : Fin 4) (f : Vector (BitVec 16) 512) : (s.setFastAc th f).planesAllocated = s.planesAllocated := rfl
@[simp] theorem State.setFastAc_bits (th : Fin 4) (f : Vector (BitVec 16) 512) : (s.setFastAc th f).bits = s.bits := rfl
@[simp] theorem State.setFastAc_scan (th : Fin 4) (f : Vector (BitVec 16) 512) : (s.setFastAc th f).scan = s.scan := rfl
@[simp] theorem State.setFastAc_restartInterval (th : Fin 4) (f : Vector (BitVec 16) 512) : (s.setFastAc th f).restartInterval = s.restartInterval := rfl
@[simp] theorem State.setFastAc_todo (th : Fin 4) (f : Vector (BitVec 16) 512) : (s.setFastAc th f).todo = s.todo := rfl
@[simp] theorem State.setFastAc_flags (th : Fin 4) (f : Vector (BitVec 16) 512) : (s.setFastAc th f).flags = s.flags := rfl
@[simp] theorem State.setFastAc_rs (th : Fin 4) (f : Vector (BitVec 16) 512) : (s.setFastAc th f).rs = s.rs := rfl
@[simp] theorem State.setFastAc_cc (th : Fin 4) (f : Vector (BitVec 16) 512) : (s.setFastAc th f).cc = s.cc := rfl
@[simp] theorem State.setFastAc_blk (th : Fin 4) (f : Vector (BitVec 16) 512) : (s.setFastAc th f).blk = s.blk := rfl
@[simp] theorem State.setFastAc_unit (th : Fin 4) (f : Vector (BitVec 16) 512) : (s.setFastAc th f).unit = s.unit := rfl
@[simp] theorem State.setFastAc_issue (th : Fin 4) (f : Vector (BitVec 16) 512) : (s.setFastAc th f).issue = s.issue := rfl
@[simp] theorem State.setFastAc_rowPending (th : Fin 4) (f : Vector (BitVec 16) 512) : (s.setFastAc th f).rowPending = s.rowPending := rfl
@[simp] theorem State.setFastAc_port (th : Fin 4) (f : Vector (BitVec 16) 512) : (s.setFastAc th f).port = s.port := rfl

@[simp] theorem State.setQt_cfg (q : Fin 4) (i : Fin 64) (v : BitVec 16) : (s.setQt q i v).cfg = s.cfg := rfl
@[simp] theorem State.setQt_phase (q : Fin 4) (i : Fin 64) (v : BitVec 16) : (s.setQt q i v).phase = s.phase := rfl
@[simp] theorem State.setQt_errCode (q : Fin 4) (i : Fin 64) (v : BitVec 16) : (s.setQt q i v).errCode = s.errCode := rfl
@[simp] theorem State.setQt_errClass (q : Fin 4) (i : Fin 64) (v : BitVec 16) : (s.setQt q i v).errClass = s.errClass := rfl
@[simp] theorem State.setQt_bytePos (q : Fin 4) (i : Fin 64) (v : BitVec 16) : (s.setQt q i v).bytePos = s.bytePos := rfl
@[simp] theorem State.setQt_rowsEmitted (q : Fin 4) (i : Fin 64) (v : BitVec 16) : (s.setQt q i v).rowsEmitted = s.rowsEmitted := rfl
@[simp] theorem State.setQt_pos (q : Fin 4) (i : Fin 64) (v : BitVec 16) : (s.setQt q i v).pos = s.pos := rfl
@[simp] theorem State.setQt_ctl (q : Fin 4) (i : Fin 64) (v : BitVec 16) : (s.setQt q i v).ctl = s.ctl := rfl
@[simp] theorem State.setQt_lastMarker (q : Fin 4) (i : Fin 64) (v : BitVec 16) : (s.setQt q i v).lastMarker = s.lastMarker := rfl
@[simp] theorem State.setQt_lastMarkerValid (q : Fin 4) (i : Fin 64) (v : BitVec 16) : (s.setQt q i v).lastMarkerValid = s.lastMarkerValid := rfl
@[simp] theorem State.setQt_huff (q : Fin 4) (i : Fin 64) (v : BitVec 16) : (s.setQt q i v).huff = s.huff := rfl
@[simp] theorem State.setQt_fastAc (q : Fin 4) (i : Fin 64) (v : BitVec 16) : (s.setQt q i v).fastAc = s.fastAc := rfl
@[simp] theorem State.setQt_qt (q : Fin 4) (i : Fin 64) (v : BitVec 16) : (s.setQt q i v).qt = s.qt.set q.val ((s.qt.get q).set i.val v i.isLt) q.isLt := rfl
@[simp] theorem State.setQt_qtLoaded (q : Fin 4) (i : Fin 64) (v : BitVec 16) : (s.setQt q i v).qtLoaded = s.qtLoaded := rfl
@[simp] theorem State.setQt_frame (q : Fin 4) (i : Fin 64) (v : BitVec 16) : (s.setQt q i v).frame = s.frame := rfl
@[simp] theorem State.setQt_comp (q : Fin 4) (i : Fin 64) (v : BitVec 16) : (s.setQt q i v).comp = s.comp := rfl
@[simp] theorem State.setQt_planesAllocated (q : Fin 4) (i : Fin 64) (v : BitVec 16) : (s.setQt q i v).planesAllocated = s.planesAllocated := rfl
@[simp] theorem State.setQt_bits (q : Fin 4) (i : Fin 64) (v : BitVec 16) : (s.setQt q i v).bits = s.bits := rfl
@[simp] theorem State.setQt_scan (q : Fin 4) (i : Fin 64) (v : BitVec 16) : (s.setQt q i v).scan = s.scan := rfl
@[simp] theorem State.setQt_restartInterval (q : Fin 4) (i : Fin 64) (v : BitVec 16) : (s.setQt q i v).restartInterval = s.restartInterval := rfl
@[simp] theorem State.setQt_todo (q : Fin 4) (i : Fin 64) (v : BitVec 16) : (s.setQt q i v).todo = s.todo := rfl
@[simp] theorem State.setQt_flags (q : Fin 4) (i : Fin 64) (v : BitVec 16) : (s.setQt q i v).flags = s.flags := rfl
@[simp] theorem State.setQt_rs (q : Fin 4) (i : Fin 64) (v : BitVec 16) : (s.setQt q i v).rs = s.rs := rfl
@[simp] theorem State.setQt_cc (q : Fin 4) (i : Fin 64) (v : BitVec 16) : (s.setQt q i v).cc = s.cc := rfl
@[simp] theorem State.setQt_blk (q : Fin 4) (i : Fin 64) (v : BitVec 16) : (s.setQt q i v).blk = s.blk := rfl
@[simp] theorem State.setQt_unit (q : Fin 4) (i : Fin 64) (v : BitVec 16) : (s.setQt q i v).unit = s.unit := rfl
@[simp] theorem State.setQt_issue (q : Fin 4) (i : Fin 64) (v : BitVec 16) : (s.setQt q i v).issue = s.issue := rfl
@[simp] theorem State.setQt_rowPending (q : Fin 4) (i : Fin 64) (v : BitVec 16) : (s.setQt q i v).rowPending = s.rowPending := rfl
@[simp] theorem State.setQt_port (q : Fin 4) (i : Fin 64) (v : BitVec 16) : (s.setQt q i v).port = s.port := rfl

@[simp] theorem State.setQtLoaded_cfg (q : Fin 4) : (s.setQtLoaded q).cfg = s.cfg := rfl
@[simp] theorem State.setQtLoaded_phase (q : Fin 4) : (s.setQtLoaded q).phase = s.phase := rfl
@[simp] theorem State.setQtLoaded_errCode (q : Fin 4) : (s.setQtLoaded q).errCode = s.errCode := rfl
@[simp] theorem State.setQtLoaded_errClass (q : Fin 4) : (s.setQtLoaded q).errClass = s.errClass := rfl
@[simp] theorem State.setQtLoaded_bytePos (q : Fin 4) : (s.setQtLoaded q).bytePos = s.bytePos := rfl
@[simp] theorem State.setQtLoaded_rowsEmitted (q : Fin 4) : (s.setQtLoaded q).rowsEmitted = s.rowsEmitted := rfl
@[simp] theorem State.setQtLoaded_pos (q : Fin 4) : (s.setQtLoaded q).pos = s.pos := rfl
@[simp] theorem State.setQtLoaded_ctl (q : Fin 4) : (s.setQtLoaded q).ctl = s.ctl := rfl
@[simp] theorem State.setQtLoaded_lastMarker (q : Fin 4) : (s.setQtLoaded q).lastMarker = s.lastMarker := rfl
@[simp] theorem State.setQtLoaded_lastMarkerValid (q : Fin 4) : (s.setQtLoaded q).lastMarkerValid = s.lastMarkerValid := rfl
@[simp] theorem State.setQtLoaded_huff (q : Fin 4) : (s.setQtLoaded q).huff = s.huff := rfl
@[simp] theorem State.setQtLoaded_fastAc (q : Fin 4) : (s.setQtLoaded q).fastAc = s.fastAc := rfl
@[simp] theorem State.setQtLoaded_qt (q : Fin 4) : (s.setQtLoaded q).qt = s.qt := rfl
@[simp] theorem State.setQtLoaded_qtLoaded (q : Fin 4) : (s.setQtLoaded q).qtLoaded = s.qtLoaded.set q.val true q.isLt := rfl
@[simp] theorem State.setQtLoaded_frame (q : Fin 4) : (s.setQtLoaded q).frame = s.frame := rfl
@[simp] theorem State.setQtLoaded_comp (q : Fin 4) : (s.setQtLoaded q).comp = s.comp := rfl
@[simp] theorem State.setQtLoaded_planesAllocated (q : Fin 4) : (s.setQtLoaded q).planesAllocated = s.planesAllocated := rfl
@[simp] theorem State.setQtLoaded_bits (q : Fin 4) : (s.setQtLoaded q).bits = s.bits := rfl
@[simp] theorem State.setQtLoaded_scan (q : Fin 4) : (s.setQtLoaded q).scan = s.scan := rfl
@[simp] theorem State.setQtLoaded_restartInterval (q : Fin 4) : (s.setQtLoaded q).restartInterval = s.restartInterval := rfl
@[simp] theorem State.setQtLoaded_todo (q : Fin 4) : (s.setQtLoaded q).todo = s.todo := rfl
@[simp] theorem State.setQtLoaded_flags (q : Fin 4) : (s.setQtLoaded q).flags = s.flags := rfl
@[simp] theorem State.setQtLoaded_rs (q : Fin 4) : (s.setQtLoaded q).rs = s.rs := rfl
@[simp] theorem State.setQtLoaded_cc (q : Fin 4) : (s.setQtLoaded q).cc = s.cc := rfl
@[simp] theorem State.setQtLoaded_blk (q : Fin 4) : (s.setQtLoaded q).blk = s.blk := rfl
@[simp] theorem State.setQtLoaded_unit (q : Fin 4) : (s.setQtLoaded q).unit = s.unit := rfl
@[simp] theorem State.setQtLoaded_issue (q : Fin 4) : (s.setQtLoaded q).issue = s.issue := rfl
@[simp] theorem State.setQtLoaded_rowPending (q : Fin 4) : (s.setQtLoaded q).rowPending = s.rowPending := rfl
@[simp] theorem State.setQtLoaded_port (q : Fin 4) : (s.setQtLoaded q).port = s.port := rfl

@[simp] theorem State.takeError_cfg (e : ErrCode) : (s.takeError e).cfg = s.cfg := rfl
@[simp] theorem State.takeError_phase (e : ErrCode) : (s.takeError e).phase = .error := rfl
@[simp] theorem State.takeError_errCode (e : ErrCode) : (s.takeError e).errCode = e.code := rfl
@[simp] theorem State.takeError_errClass (e : ErrCode) : (s.takeError e).errClass = e.cls := rfl
@[simp] theorem State.takeError_bytePos (e : ErrCode) : (s.takeError e).bytePos = s.bytePos := rfl
@[simp] theorem State.takeError_rowsEmitted (e : ErrCode) : (s.takeError e).rowsEmitted = s.rowsEmitted := rfl
@[simp] theorem State.takeError_pos (e : ErrCode) : (s.takeError e).pos = s.pos := rfl
@[simp] theorem State.takeError_ctl (e : ErrCode) : (s.takeError e).ctl = { s.ctl with abortReq := false } := rfl
@[simp] theorem State.takeError_lastMarker (e : ErrCode) : (s.takeError e).lastMarker = s.lastMarker := rfl
@[simp] theorem State.takeError_lastMarkerValid (e : ErrCode) : (s.takeError e).lastMarkerValid = s.lastMarkerValid := rfl
@[simp] theorem State.takeError_huff (e : ErrCode) : (s.takeError e).huff = s.huff := rfl
@[simp] theorem State.takeError_fastAc (e : ErrCode) : (s.takeError e).fastAc = s.fastAc := rfl
@[simp] theorem State.takeError_qt (e : ErrCode) : (s.takeError e).qt = s.qt := rfl
@[simp] theorem State.takeError_qtLoaded (e : ErrCode) : (s.takeError e).qtLoaded = s.qtLoaded := rfl
@[simp] theorem State.takeError_frame (e : ErrCode) : (s.takeError e).frame = s.frame := rfl
@[simp] theorem State.takeError_comp (e : ErrCode) : (s.takeError e).comp = s.comp := rfl
@[simp] theorem State.takeError_planesAllocated (e : ErrCode) : (s.takeError e).planesAllocated = s.planesAllocated := rfl
@[simp] theorem State.takeError_bits (e : ErrCode) : (s.takeError e).bits = s.bits := rfl
@[simp] theorem State.takeError_scan (e : ErrCode) : (s.takeError e).scan = s.scan := rfl
@[simp] theorem State.takeError_restartInterval (e : ErrCode) : (s.takeError e).restartInterval = s.restartInterval := rfl
@[simp] theorem State.takeError_todo (e : ErrCode) : (s.takeError e).todo = s.todo := rfl
@[simp] theorem State.takeError_flags (e : ErrCode) : (s.takeError e).flags = s.flags := rfl
@[simp] theorem State.takeError_rs (e : ErrCode) : (s.takeError e).rs = s.rs := rfl
@[simp] theorem State.takeError_cc (e : ErrCode) : (s.takeError e).cc = s.cc := rfl
@[simp] theorem State.takeError_blk (e : ErrCode) : (s.takeError e).blk = s.blk := rfl
@[simp] theorem State.takeError_unit (e : ErrCode) : (s.takeError e).unit = s.unit := rfl
@[simp] theorem State.takeError_issue (e : ErrCode) : (s.takeError e).issue = s.issue := rfl
@[simp] theorem State.takeError_rowPending (e : ErrCode) : (s.takeError e).rowPending = s.rowPending := rfl
@[simp] theorem State.takeError_port (e : ErrCode) : (s.takeError e).port = s.port := rfl

@[simp] theorem State.hold_cfg (n : BitVec 32) : (s.hold n).cfg = s.cfg := rfl
@[simp] theorem State.hold_phase (n : BitVec 32) : (s.hold n).phase = s.phase := rfl
@[simp] theorem State.hold_errCode (n : BitVec 32) : (s.hold n).errCode = s.errCode := rfl
@[simp] theorem State.hold_errClass (n : BitVec 32) : (s.hold n).errClass = s.errClass := rfl
@[simp] theorem State.hold_bytePos (n : BitVec 32) : (s.hold n).bytePos = s.bytePos := rfl
@[simp] theorem State.hold_rowsEmitted (n : BitVec 32) : (s.hold n).rowsEmitted = s.rowsEmitted := rfl
@[simp] theorem State.hold_pos (n : BitVec 32) : (s.hold n).pos = s.pos := rfl
@[simp] theorem State.hold_ctl (n : BitVec 32) : (s.hold n).ctl = { s.ctl with stallIn := true, held := n } := rfl
@[simp] theorem State.hold_lastMarker (n : BitVec 32) : (s.hold n).lastMarker = s.lastMarker := rfl
@[simp] theorem State.hold_lastMarkerValid (n : BitVec 32) : (s.hold n).lastMarkerValid = s.lastMarkerValid := rfl
@[simp] theorem State.hold_huff (n : BitVec 32) : (s.hold n).huff = s.huff := rfl
@[simp] theorem State.hold_fastAc (n : BitVec 32) : (s.hold n).fastAc = s.fastAc := rfl
@[simp] theorem State.hold_qt (n : BitVec 32) : (s.hold n).qt = s.qt := rfl
@[simp] theorem State.hold_qtLoaded (n : BitVec 32) : (s.hold n).qtLoaded = s.qtLoaded := rfl
@[simp] theorem State.hold_frame (n : BitVec 32) : (s.hold n).frame = s.frame := rfl
@[simp] theorem State.hold_comp (n : BitVec 32) : (s.hold n).comp = s.comp := rfl
@[simp] theorem State.hold_planesAllocated (n : BitVec 32) : (s.hold n).planesAllocated = s.planesAllocated := rfl
@[simp] theorem State.hold_bits (n : BitVec 32) : (s.hold n).bits = s.bits := rfl
@[simp] theorem State.hold_scan (n : BitVec 32) : (s.hold n).scan = s.scan := rfl
@[simp] theorem State.hold_restartInterval (n : BitVec 32) : (s.hold n).restartInterval = s.restartInterval := rfl
@[simp] theorem State.hold_todo (n : BitVec 32) : (s.hold n).todo = s.todo := rfl
@[simp] theorem State.hold_flags (n : BitVec 32) : (s.hold n).flags = s.flags := rfl
@[simp] theorem State.hold_rs (n : BitVec 32) : (s.hold n).rs = s.rs := rfl
@[simp] theorem State.hold_cc (n : BitVec 32) : (s.hold n).cc = s.cc := rfl
@[simp] theorem State.hold_blk (n : BitVec 32) : (s.hold n).blk = s.blk := rfl
@[simp] theorem State.hold_unit (n : BitVec 32) : (s.hold n).unit = s.unit := rfl
@[simp] theorem State.hold_issue (n : BitVec 32) : (s.hold n).issue = s.issue := rfl
@[simp] theorem State.hold_rowPending (n : BitVec 32) : (s.hold n).rowPending = s.rowPending := rfl
@[simp] theorem State.hold_port (n : BitVec 32) : (s.hold n).port = s.port := rfl

@[simp] theorem State.unheld_cfg : (s.unheld).cfg = s.cfg := rfl
@[simp] theorem State.unheld_phase : (s.unheld).phase = s.phase := rfl
@[simp] theorem State.unheld_errCode : (s.unheld).errCode = s.errCode := rfl
@[simp] theorem State.unheld_errClass : (s.unheld).errClass = s.errClass := rfl
@[simp] theorem State.unheld_bytePos : (s.unheld).bytePos = s.bytePos := rfl
@[simp] theorem State.unheld_rowsEmitted : (s.unheld).rowsEmitted = s.rowsEmitted := rfl
@[simp] theorem State.unheld_pos : (s.unheld).pos = s.pos := rfl
@[simp] theorem State.unheld_ctl : (s.unheld).ctl = { s.ctl with stallIn := false, held := 0 } := rfl
@[simp] theorem State.unheld_lastMarker : (s.unheld).lastMarker = s.lastMarker := rfl
@[simp] theorem State.unheld_lastMarkerValid : (s.unheld).lastMarkerValid = s.lastMarkerValid := rfl
@[simp] theorem State.unheld_huff : (s.unheld).huff = s.huff := rfl
@[simp] theorem State.unheld_fastAc : (s.unheld).fastAc = s.fastAc := rfl
@[simp] theorem State.unheld_qt : (s.unheld).qt = s.qt := rfl
@[simp] theorem State.unheld_qtLoaded : (s.unheld).qtLoaded = s.qtLoaded := rfl
@[simp] theorem State.unheld_frame : (s.unheld).frame = s.frame := rfl
@[simp] theorem State.unheld_comp : (s.unheld).comp = s.comp := rfl
@[simp] theorem State.unheld_planesAllocated : (s.unheld).planesAllocated = s.planesAllocated := rfl
@[simp] theorem State.unheld_bits : (s.unheld).bits = s.bits := rfl
@[simp] theorem State.unheld_scan : (s.unheld).scan = s.scan := rfl
@[simp] theorem State.unheld_restartInterval : (s.unheld).restartInterval = s.restartInterval := rfl
@[simp] theorem State.unheld_todo : (s.unheld).todo = s.todo := rfl
@[simp] theorem State.unheld_flags : (s.unheld).flags = s.flags := rfl
@[simp] theorem State.unheld_rs : (s.unheld).rs = s.rs := rfl
@[simp] theorem State.unheld_cc : (s.unheld).cc = s.cc := rfl
@[simp] theorem State.unheld_blk : (s.unheld).blk = s.blk := rfl
@[simp] theorem State.unheld_unit : (s.unheld).unit = s.unit := rfl
@[simp] theorem State.unheld_issue : (s.unheld).issue = s.issue := rfl
@[simp] theorem State.unheld_rowPending : (s.unheld).rowPending = s.rowPending := rfl
@[simp] theorem State.unheld_port : (s.unheld).port = s.port := rfl

@[simp] theorem State.deliver_cfg (e : Event) : (s.deliver e).cfg = s.cfg := rfl
@[simp] theorem State.deliver_phase (e : Event) : (s.deliver e).phase = s.phase := rfl
@[simp] theorem State.deliver_errCode (e : Event) : (s.deliver e).errCode = s.errCode := rfl
@[simp] theorem State.deliver_errClass (e : Event) : (s.deliver e).errClass = s.errClass := rfl
@[simp] theorem State.deliver_bytePos (e : Event) : (s.deliver e).bytePos = s.bytePos := rfl
@[simp] theorem State.deliver_rowsEmitted (e : Event) : (s.deliver e).rowsEmitted = s.rowsEmitted := rfl
@[simp] theorem State.deliver_pos (e : Event) : (s.deliver e).pos = s.pos := rfl
@[simp] theorem State.deliver_ctl (e : Event) : (s.deliver e).ctl = s.ctl := rfl
@[simp] theorem State.deliver_lastMarker (e : Event) : (s.deliver e).lastMarker = s.lastMarker := rfl
@[simp] theorem State.deliver_lastMarkerValid (e : Event) : (s.deliver e).lastMarkerValid = s.lastMarkerValid := rfl
@[simp] theorem State.deliver_huff (e : Event) : (s.deliver e).huff = s.huff := rfl
@[simp] theorem State.deliver_fastAc (e : Event) : (s.deliver e).fastAc = s.fastAc := rfl
@[simp] theorem State.deliver_qt (e : Event) : (s.deliver e).qt = s.qt := rfl
@[simp] theorem State.deliver_qtLoaded (e : Event) : (s.deliver e).qtLoaded = s.qtLoaded := rfl
@[simp] theorem State.deliver_frame (e : Event) : (s.deliver e).frame = s.frame := rfl
@[simp] theorem State.deliver_comp (e : Event) : (s.deliver e).comp = s.comp := rfl
@[simp] theorem State.deliver_planesAllocated (e : Event) : (s.deliver e).planesAllocated = s.planesAllocated := rfl
@[simp] theorem State.deliver_bits (e : Event) : (s.deliver e).bits = s.bits := rfl
@[simp] theorem State.deliver_scan (e : Event) : (s.deliver e).scan = s.scan := rfl
@[simp] theorem State.deliver_restartInterval (e : Event) : (s.deliver e).restartInterval = s.restartInterval := rfl
@[simp] theorem State.deliver_todo (e : Event) : (s.deliver e).todo = s.todo := rfl
@[simp] theorem State.deliver_flags (e : Event) : (s.deliver e).flags = s.flags := rfl
@[simp] theorem State.deliver_rs (e : Event) : (s.deliver e).rs = s.rs := rfl
@[simp] theorem State.deliver_cc (e : Event) : (s.deliver e).cc = s.cc := rfl
@[simp] theorem State.deliver_blk (e : Event) : (s.deliver e).blk = s.blk := rfl
@[simp] theorem State.deliver_unit (e : Event) : (s.deliver e).unit = s.unit := rfl
@[simp] theorem State.deliver_issue (e : Event) : (s.deliver e).issue = s.issue := rfl
@[simp] theorem State.deliver_rowPending (e : Event) : (s.deliver e).rowPending = s.rowPending := rfl
@[simp] theorem State.deliver_port (e : Event) : (s.deliver e).port = { s.port with events := s.port.events ++ [e] } := rfl

@[simp] theorem State.resetEntropy_cfg : (s.resetEntropy).cfg = s.cfg := rfl
@[simp] theorem State.resetEntropy_phase : (s.resetEntropy).phase = s.phase := rfl
@[simp] theorem State.resetEntropy_errCode : (s.resetEntropy).errCode = s.errCode := rfl
@[simp] theorem State.resetEntropy_errClass : (s.resetEntropy).errClass = s.errClass := rfl
@[simp] theorem State.resetEntropy_bytePos : (s.resetEntropy).bytePos = s.bytePos := rfl
@[simp] theorem State.resetEntropy_rowsEmitted : (s.resetEntropy).rowsEmitted = s.rowsEmitted := rfl
@[simp] theorem State.resetEntropy_pos : (s.resetEntropy).pos = s.pos := rfl
@[simp] theorem State.resetEntropy_ctl : (s.resetEntropy).ctl = s.ctl := rfl
@[simp] theorem State.resetEntropy_lastMarker : (s.resetEntropy).lastMarker = s.lastMarker := rfl
@[simp] theorem State.resetEntropy_lastMarkerValid : (s.resetEntropy).lastMarkerValid = s.lastMarkerValid := rfl
@[simp] theorem State.resetEntropy_huff : (s.resetEntropy).huff = s.huff := rfl
@[simp] theorem State.resetEntropy_fastAc : (s.resetEntropy).fastAc = s.fastAc := rfl
@[simp] theorem State.resetEntropy_qt : (s.resetEntropy).qt = s.qt := rfl
@[simp] theorem State.resetEntropy_qtLoaded : (s.resetEntropy).qtLoaded = s.qtLoaded := rfl
@[simp] theorem State.resetEntropy_frame : (s.resetEntropy).frame = s.frame := rfl
@[simp] theorem State.resetEntropy_comp : (s.resetEntropy).comp = s.comp.map (fun c => { c with dcPred := 0 }) := rfl
@[simp] theorem State.resetEntropy_planesAllocated : (s.resetEntropy).planesAllocated = s.planesAllocated := rfl
@[simp] theorem State.resetEntropy_bits : (s.resetEntropy).bits = BitMachine.cleared := rfl
@[simp] theorem State.resetEntropy_scan : (s.resetEntropy).scan = { s.scan with eobRun := 0 } := rfl
@[simp] theorem State.resetEntropy_restartInterval : (s.resetEntropy).restartInterval = s.restartInterval := rfl
@[simp] theorem State.resetEntropy_todo : (s.resetEntropy).todo = s.todoStart := rfl
@[simp] theorem State.resetEntropy_flags : (s.resetEntropy).flags = s.flags := rfl
@[simp] theorem State.resetEntropy_rs : (s.resetEntropy).rs = s.rs := rfl
@[simp] theorem State.resetEntropy_cc : (s.resetEntropy).cc = s.cc := rfl
@[simp] theorem State.resetEntropy_blk : (s.resetEntropy).blk = s.blk := rfl
@[simp] theorem State.resetEntropy_unit : (s.resetEntropy).unit = s.unit := rfl
@[simp] theorem State.resetEntropy_issue : (s.resetEntropy).issue = s.issue := rfl
@[simp] theorem State.resetEntropy_rowPending : (s.resetEntropy).rowPending = s.rowPending := rfl
@[simp] theorem State.resetEntropy_port : (s.resetEntropy).port = s.port := rfl

end Sys2Proof.Machine
end

