-- ==== Sys2Proof/Laws/Seq.lean ====
section
/-! SUPPORT. How the pieces of a rule run: equations of `Seq`, what a rule as a whole can answer, and triples over pieces. -/

namespace Sys2Proof.Machine

variable {α β : Type}

/-! ### Equations -/

@[simp] theorem seq_pure (a : α) (s : State) : (pure a : Seq α) s = .ok a s := rfl

theorem seq_bind (m : Seq α) (f : α → Seq β) (s : State) :
    (m >>= f) s = match m s with
      | .ok a t => f a t
      | .error e t => .error e t := by
  show EStateM.bind m f s = _
  unfold EStateM.bind
  cases m s <;> rfl

theorem seq_map (m : Seq α) (f : α → β) (s : State) :
    (f <$> m) s = match m s with
      | .ok a t => .ok (f a) t
      | .error e t => .error e t := by
  show EStateM.map f m s = _
  unfold EStateM.map
  cases m s <;> rfl

theorem seq_bind_ok {m : Seq α} {s t : State} {a : α} (h : m s = .ok a t) (f : α → Seq β) : (m >>= f) s = f a t := by
  rw [seq_bind, h]

theorem seq_bind_error {m : Seq α} {s t : State} {e : Stop} (h : m s = .error e t) (f : α → Seq β) :
    (m >>= f) s = .error e t := by
  rw [seq_bind, h]

@[simp] theorem look_apply (f : State → α) (s : State) : look f s = .ok (f s) s := rfl

@[simp] theorem seq_get (s : State) : (get : Seq State) s = .ok s s := rfl

@[simp] theorem upd_apply (f : State → State) (s : State) : upd f s = .ok () (f s) := rfl

@[simp] theorem raise_apply (e : ErrCode) (s : State) : (raise e : Seq α) s = .error (.raise e) s := rfl

@[simp] theorem modelFault_apply (f : Fault) (s : State) : (modelFault f : Seq α) s = .error (.fault f) s := rfl

@[simp] theorem look_bind (f : State → α) (k : α → Seq β) (s : State) : (look f >>= k) s = k (f s) s := rfl

@[simp] theorem get_bind (k : State → Seq β) (s : State) : ((get : Seq State) >>= k) s = k s s := rfl

@[simp] theorem upd_bind (f : State → State) (k : Unit → Seq β) (s : State) : (upd f >>= k) s = k () (f s) := rfl

@[simp] theorem raise_bind (e : ErrCode) (k : α → Seq β) (s : State) :
    ((raise e : Seq α) >>= k) s = .error (.raise e) s := rfl

@[simp] theorem modelFault_bind (f : Fault) (k : α → Seq β) (s : State) :
    ((modelFault f : Seq α) >>= k) s = .error (.fault f) s := rfl

@[simp] theorem check_true (e : ErrCode) : check true e = raise e := rfl

@[simp] theorem check_false (e : ErrCode) : check false e = pure () := rfl

@[simp] theorem onlyIf_true (m : Seq Unit) : onlyIf true m = m := rfl

@[simp] theorem onlyIf_false (m : Seq Unit) : onlyIf false m = pure () := rfl

@[simp] theorem forEach_nil (f : α → Seq Unit) : forEach [] f = pure () := rfl

@[simp] theorem forEach_cons (x : α) (xs : List α) (f : α → Seq Unit) :
    forEach (x :: xs) f = (do f x; forEach xs f) := rfl

/-! ### What a rule answers -/

theorem runOp_ok {m : Seq Unit} {s t : State} (h : m s.unheld = .ok () t) : runOp m s = .next t := by
  simp [runOp, settle, h]

theorem runOp_raise {m : Seq Unit} {s t : State} {e : ErrCode} (h : m s.unheld = .error (.raise e) t) :
    runOp m s = .next (t.takeError e) := by
  simp [runOp, settle, h]

theorem runOp_stall {m : Seq Unit} {s t : State} (h : m s.unheld = .error .stall t) :
    runOp m s = .next (s.hold (t.bytePos - s.bytePos)) := by
  simp [runOp, settle, h]

theorem runOp_fault {m : Seq Unit} {s t : State} {f : Fault} (h : m s.unheld = .error (.fault f) t) :
    runOp m s = .fault f := by
  simp [runOp, settle, h]

/-- A rule that answers a next state ran to its end, raised, or was held. -/
theorem runOp_next {m : Seq Unit} {s t : State} (h : runOp m s = .next t) :
    m s.unheld = .ok () t ∨ (∃ e u, m s.unheld = .error (.raise e) u ∧ t = u.takeError e) ∨
      ∃ u, m s.unheld = .error .stall u ∧ t = s.hold (u.bytePos - s.bytePos) := by
  unfold runOp settle at h
  split at h
  · rename_i hm; cases h; exact .inl hm
  · rename_i hm; cases h; exact .inr (.inl ⟨_, _, hm, rfl⟩)
  · rename_i hm; cases h; exact .inr (.inr ⟨_, hm, rfl⟩)
  · cases h

/-- No rule is refused. -/
theorem runOp_not_refused (m : Seq Unit) (s : State) (r : Refusal) : runOp m s ≠ .refused r := by
  unfold runOp settle
  split <;> simp

/-! ### Triples -/

/-- From a state with `P`, a piece ends with `Q` of its value and state, or stops with `E` of its reason and state. -/
def Triple (P : State → Prop) (m : Seq α) (Q : α → State → Prop) (E : Stop → State → Prop) : Prop :=
  ∀ s, P s → match m s with
    | .ok a t => Q a t
    | .error e t => E e t

section
variable {P P' : State → Prop} {Q : α → State → Prop} {E : Stop → State → Prop}

theorem triple_pure {a : α} (h : ∀ s, P s → Q a s) : Triple P (pure a) Q E := h

theorem triple_bind {m : Seq α} {f : α → Seq β} {R : β → State → Prop} (hm : Triple P m Q E)
    (hf : ∀ a, Triple (Q a) (f a) R E) : Triple P (m >>= f) R E := by
  intro s hs
  rw [seq_bind]
  have h := hm s hs
  cases hms : m s with
  | ok a t => rw [hms] at h; exact hf a t h
  | error e t => rw [hms] at h; exact h

theorem triple_look {f : State → α} (h : ∀ s, P s → Q (f s) s) : Triple P (look f) Q E := h

theorem triple_get {Q : State → State → Prop} (h : ∀ s, P s → Q s s) : Triple P (get : Seq State) Q E := h

theorem triple_upd {f : State → State} {Q : Unit → State → Prop} (h : ∀ s, P s → Q () (f s)) : Triple P (upd f) Q E := h

theorem triple_raise {e : ErrCode} (h : ∀ s, P s → E (.raise e) s) : Triple P (raise e : Seq α) Q E := h

theorem triple_modelFault {f : Fault} (h : ∀ s, P s → E (.fault f) s) : Triple P (modelFault f : Seq α) Q E := h

theorem triple_weaken {m : Seq α} (h : ∀ s, P' s → P s) (hm : Triple P m Q E) : Triple P' m Q E :=
  fun s hs => hm s (h s hs)

theorem triple_conseq {m : Seq α} {Q' : α → State → Prop} {E' : Stop → State → Prop} (hm : Triple P m Q E)
    (hq : ∀ a s, Q a s → Q' a s) (he : ∀ e s, E e s → E' e s) : Triple P m Q' E' := by
  intro s hs
  have h := hm s hs
  cases hms : m s with
  | ok a t => rw [hms] at h; exact hq _ _ h
  | error e t => rw [hms] at h; exact he _ _ h

theorem triple_ite {c : Prop} [Decidable c] {m n : Seq α} (hm : c → Triple P m Q E) (hn : ¬c → Triple P n Q E) :
    Triple P (if c then m else n) Q E := by
  split
  · exact hm ‹_›
  · exact hn ‹_›

theorem triple_check {c : Bool} {e : ErrCode} {Q : Unit → State → Prop} (hf : c = false → ∀ s, P s → Q () s)
    (ht : c = true → ∀ s, P s → E (.raise e) s) : Triple P (check c e) Q E := by
  cases c
  · exact hf rfl
  · exact ht rfl

theorem triple_onlyIf {c : Bool} {m : Seq Unit} {Q : Unit → State → Prop} (hf : c = false → ∀ s, P s → Q () s)
    (ht : c = true → Triple P m Q E) : Triple P (onlyIf c m) Q E := by
  cases c
  · exact hf rfl
  · exact ht rfl

theorem triple_forEach {xs : List α} {f : α → Seq Unit} (h : ∀ x ∈ xs, Triple P (f x) (fun _ => P) E) :
    Triple P (forEach xs f) (fun _ => P) E := by
  induction xs with
  | nil => exact fun s hs => hs
  | cons x xs ih =>
    exact triple_bind (h x (by simp)) (fun _ => ih (fun y hy => h y (by simp [hy])))

end

/-- A rule of which a triple holds: whatever next state it answers. -/
theorem Triple.runOp {P : State → Prop} {m : Seq Unit} {Q : Unit → State → Prop} {E : Stop → State → Prop}
    (hm : Triple P m Q E) {s t : State} (hs : P s.unheld) (h : runOp m s = .next t) :
    Q () t ∨ (∃ e u, E (.raise e) u ∧ t = u.takeError e) ∨ ∃ n, t = s.hold n := by
  have hu := hm s.unheld hs
  rcases runOp_next h with h1 | ⟨e, u, h1, rfl⟩ | ⟨u, h1, rfl⟩
  · rw [h1] at hu; exact .inl hu
  · rw [h1] at hu; exact .inr (.inl ⟨e, u, hu, rfl⟩)
  · exact .inr (.inr ⟨_, rfl⟩)

end Sys2Proof.Machine
end

