-- ==== Sys2Proof/Laws/Memory.lean ====
section
/-! SUPPORT. The planes: reads after writes, the canonical form, and what each named operation of spec/20_memory.md can do. -/

namespace Sys2Proof.Machine

variable {w : Nat}

/-! ### The element lists -/

theorem Mem.wf_cons (p : Nat × BitVec w) (m : Mem w) :
    Mem.wf (p :: m) = true ↔ (∀ q ∈ m, p.1 < q.1) ∧ Mem.wf m = true := by
  simp [Mem.wf]

theorem Mem.mem_write {m : Mem w} {a : Nat} {v : BitVec w} {q : Nat × BitVec w} (h : q ∈ Mem.write m a v) :
    q = (a, v) ∨ q ∈ m := by
  induction m with
  | nil => simpa [Mem.write] using h
  | cons p m ih =>
    unfold Mem.write at h
    split at h
    · simpa using h
    · split at h
      · rcases List.mem_cons.1 h with h | h
        · exact .inl h
        · exact .inr (List.mem_cons_of_mem _ h)
      · rcases List.mem_cons.1 h with h | h
        · exact .inr (by simp [h])
        · rcases ih h with h | h
          · exact .inl h
          · exact .inr (List.mem_cons_of_mem _ h)

/-- A write keeps the canonical form. -/
theorem Mem.wf_write {m : Mem w} (a : Nat) (v : BitVec w) (h : Mem.wf m = true) : Mem.wf (Mem.write m a v) = true := by
  induction m with
  | nil => simp [Mem.write, Mem.wf]
  | cons p m ih =>
    obtain ⟨hp, hm⟩ := (Mem.wf_cons p m).1 h
    unfold Mem.write
    split
    · rename_i hlt
      refine (Mem.wf_cons _ _).2 ⟨fun q hq => ?_, h⟩
      rcases List.mem_cons.1 hq with rfl | hq
      · exact hlt
      · exact Nat.lt_trans hlt (hp q hq)
    · split
      · rename_i heq
        exact (Mem.wf_cons _ _).2 ⟨fun q hq => by rw [heq]; exact hp q hq, hm⟩
      · refine (Mem.wf_cons _ _).2 ⟨fun q hq => ?_, ih hm⟩
        rcases Mem.mem_write hq with rfl | hq
        · show p.1 < a
          omega
        · exact hp q hq

/-- A read after a write to the same index gives the value written. -/
theorem Mem.read_write_same (m : Mem w) (a : Nat) (v : BitVec w) : Mem.read (Mem.write m a v) a = some v := by
  induction m with
  | nil => simp [Mem.write, Mem.read]
  | cons p m ih =>
    unfold Mem.write
    split
    · simp [Mem.read]
    · split
      · simp [Mem.read]
      · have : p.1 ≠ a := by omega
        simp [Mem.read, this, ih]

/-- A write leaves every other index as it was. -/
theorem Mem.read_write_other (m : Mem w) {a b : Nat} (v : BitVec w) (h : b ≠ a) :
    Mem.read (Mem.write m a v) b = Mem.read m b := by
  induction m with
  | nil => simp [Mem.write, Mem.read, h.symm]
  | cons p m ih =>
    unfold Mem.write
    split
    · simp [Mem.read, h.symm]
    · split
      · rename_i heq
        have : p.1 ≠ b := by omega
        simp [Mem.read, h.symm, this]
      · by_cases hp : p.1 = b
        · simp [Mem.read, hp]
        · simp [Mem.read, hp, ih]

/-! ### The planes of the state -/

/-- All planes are in canonical form (R77, R78). -/
theorem planesWf_reset (c : Fin 4) :
    Mem.wf (State.reset.comp.get c).plane = true ∧ Mem.wf (State.reset.comp.get c).coef = true := by
  revert c
  decide

theorem comp_set_get (s : State) (c d : Fin 4) (r : Comp) :
    ((s.comp.set c.val r c.isLt).get d) = if c = d then r else s.comp.get d := by
  simp only [Vector.get_eq_getElem, Vector.getElem_set]
  split
  · rename_i h; rw [if_pos (Fin.ext h)]
  · rename_i h; rw [if_neg (fun e => h (congrArg Fin.val e))]

/-- What `PlaneWrite` can do (R77). -/
theorem planeWrite_cases (c : Fin 4) (y x : Nat) (v : Byte) (s : State) :
    (s.inPlane c y x = true ∧ planeWrite c y x v s =
        .ok () (s.setComp c { s.comp.get c with plane := (s.comp.get c).plane.write (s.planeIndex c y x) v })) ∨
      (s.inPlane c y x = false ∧ planeWrite c y x v s = .error (.fault .planeIndex) s) := by
  unfold planeWrite
  cases s.inPlane c y x <;> simp

/-- What `PlaneRead` can do (R77). -/
theorem planeRead_cases (c : Fin 4) (y x : Nat) (s : State) :
    (∃ v, s.inPlane c y x = true ∧ (s.comp.get c).plane.read (s.planeIndex c y x) = some v ∧
        planeRead c y x s = .ok v s) ∨
      ∃ f, planeRead c y x s = .error (.fault f) s := by
  unfold planeRead
  cases s.inPlane c y x with
  | false => exact .inr ⟨_, rfl⟩
  | true =>
    cases h : (s.comp.get c).plane.read (s.planeIndex c y x) with
    | none => exact .inr ⟨_, rfl⟩
    | some v => exact .inl ⟨v, rfl, rfl, rfl⟩

/-- What `CoefWrite` can do (R78). -/
theorem coefWrite_cases (c : Fin 4) (b i : Nat) (v : BitVec 16) (s : State) :
    (s.inCoef c b i = true ∧ coefWrite c b i v s =
        .ok () (s.setComp c { s.comp.get c with coef := (s.comp.get c).coef.write (64 * b + i) v })) ∨
      (s.inCoef c b i = false ∧ coefWrite c b i v s = .error (.fault .coefIndex) s) := by
  unfold coefWrite
  cases s.inCoef c b i <;> simp

/-- What `CoefRead` can do (R78). -/
theorem coefRead_cases (c : Fin 4) (b i : Nat) (s : State) :
    (∃ v, s.inCoef c b i = true ∧ (s.comp.get c).coef.read (64 * b + i) = some v ∧ coefRead c b i s = .ok v s) ∨
      ∃ f, coefRead c b i s = .error (.fault f) s := by
  unfold coefRead
  cases s.inCoef c b i with
  | false => exact .inr ⟨_, rfl⟩
  | true =>
    cases h : (s.comp.get c).coef.read (64 * b + i) with
    | none => exact .inr ⟨_, rfl⟩
    | some v => exact .inl ⟨v, rfl, rfl, rfl⟩

/-- The canonical form of all planes is kept by `PlaneWrite`, whatever it answers. -/
theorem planeWrite_wf {s : State} (c : Fin 4) (y x : Nat) (v : Byte)
    (h : ∀ d, Mem.wf (s.comp.get d).plane = true) :
    match planeWrite c y x v s with
    | .ok _ t => ∀ d, Mem.wf (t.comp.get d).plane = true
    | .error _ t => t = s := by
  rcases planeWrite_cases c y x v s with ⟨-, e⟩ | ⟨-, e⟩ <;> rw [e]
  intro d
  rw [State.setComp_comp, comp_set_get]
  split
  · exact Mem.wf_write _ _ (h c)
  · exact h d

/-- The canonical form of all planes is kept by `CoefWrite`, whatever it answers. -/
theorem coefWrite_wf {s : State} (c : Fin 4) (b i : Nat) (v : BitVec 16)
    (h : ∀ d, Mem.wf (s.comp.get d).coef = true) :
    match coefWrite c b i v s with
    | .ok _ t => ∀ d, Mem.wf (t.comp.get d).coef = true
    | .error _ t => t = s := by
  rcases coefWrite_cases c b i v s with ⟨-, e⟩ | ⟨-, e⟩ <;> rw [e]
  intro d
  rw [State.setComp_comp, comp_set_get]
  split
  · exact Mem.wf_write _ _ (h c)
  · exact h d

/-! ### The tables -/

/-- What a read of a Huffman table can do (R36). -/
theorem loadedHuff_cases (tc : Fin 2) (th : Fin 4) (s : State) :
    ((s.huffAt tc th).loaded = true ∧ loadedHuff tc th s = .ok (s.huffAt tc th) s) ∨
      ((s.huffAt tc th).loaded = false ∧ loadedHuff tc th s = .error (.fault .unloadedTable) s) := by
  unfold loadedHuff
  cases (s.huffAt tc th).loaded <;> simp

/-- What a read of a quantisation table can do (R38). -/
theorem loadedQt_cases (q : Fin 4) (s : State) :
    (s.qtLoaded.get q = true ∧ loadedQt q s = .ok (s.qt.get q) s) ∨
      (s.qtLoaded.get q = false ∧ loadedQt q s = .error (.fault .unloadedTable) s) := by
  unfold loadedQt
  cases s.qtLoaded.get q <;> simp

/-! ### The input port -/

/-- The state after one byte has been taken (R71). -/
theorem readU8_cons {s : State} {b : Byte} {rest : List Byte} (h : s.port.input = b :: rest) :
    readU8 s = .ok b { s with port := { s.port with input := rest }, bytePos := s.bytePos + 1 } := by
  simp [readU8, h]

/-- With no byte supplied a read raises at the end of the stream and else waits (R71). -/
theorem readU8_nil {s : State} (h : s.port.input = []) :
    readU8 s = .error (if s.port.eos then .raise .endOfStream else .stall) s := by
  simp only [readU8, h]
  cases s.port.eos <;> rfl

/-- A big-endian field (R73). -/
theorem readU16_cons {s : State} {a b : Byte} {rest : List Byte} (h : s.port.input = a :: b :: rest) :
    readU16 s = .ok (a ++ b) { s with port := { s.port with input := rest }, bytePos := s.bytePos + 1 + 1 } := by
  rw [readU16, seq_bind_ok (readU8_cons h), seq_bind_ok (readU8_cons rfl)]
  rfl

end Sys2Proof.Machine
end

