-- ==== Sys2Proof/Laws/Ops.lean ====
section
/-! SUPPORT. What the shared operations answer, one lemma each, so that a proof about a rule cites these and unfolds none of them. -/

namespace Sys2Proof.Machine

/-! ### Checks -/

/-- `if c: raise E` (R10): it goes on unchanged, or raises. -/
theorem check_apply (c : Bool) (e : ErrCode) (s : State) :
    check c e s = if c then .error (.raise e) s else .ok () s := by
  cases c <;> rfl

theorem onlyIf_apply (c : Bool) (m : Seq Unit) (s : State) : onlyIf c m s = if c then m s else .ok () s := by
  cases c <;> rfl

/-! ### Reading bytes -/

/-- Skip over bytes that are supplied (R74). -/
theorem skip_append (l rest : List Byte) (s : State) (h : s.port.input = l ++ rest) :
    skip l.length s = .ok () { s with
      port := { s.port with input := rest }, bytePos := s.bytePos + BitVec.ofNat 32 l.length } := by
  induction l generalizing s with
  | nil => obtain rfl : s.port.input = rest := by simpa using h
           simp [skip]
  | cons b l ih =>
    have hb := readU8_cons (s := s) (b := b) (rest := l ++ rest) (by simpa using h)
    simp only [List.length_cons, skip]
    rw [seq_bind_ok hb, ih _ rfl]
    simp [Nat.add_comm l.length 1, BitVec.ofNat_add, BitVec.add_assoc]

/-- Reading as many bytes as a list has gives the list (R71). -/
theorem readBytes_append (l rest : List Byte) (s : State) (h : s.port.input = l ++ rest) :
    readBytes l.length s = .ok l { s with
      port := { s.port with input := rest }, bytePos := s.bytePos + BitVec.ofNat 32 l.length } := by
  induction l generalizing s with
  | nil => obtain rfl : s.port.input = rest := by simpa using h
           simp [readBytes]
  | cons b l ih =>
    have hb := readU8_cons (s := s) (b := b) (rest := l ++ rest) (by simpa using h)
    simp only [List.length_cons, readBytes]
    rw [seq_bind_ok hb, seq_bind_ok (ih _ rfl)]
    simp [Nat.add_comm l.length 1, BitVec.ofNat_add, BitVec.add_assoc]

/-- Fill bytes are read past; the first other byte is given (R100, R180). -/
theorem readPastFF_append (k n : Nat) (c : Byte) (rest : List Byte) (s : State) (hc : c ≠ 0xFF) (hn : k ≤ n)
    (h : s.port.input = List.replicate k 0xFF ++ c :: rest) :
    readPastFF n s = .ok c { s with
      port := { s.port with input := rest }, bytePos := s.bytePos + BitVec.ofNat 32 (k + 1) } := by
  induction k generalizing n s with
  | zero =>
    have hb := readU8_cons (s := s) (b := c) (rest := rest) (by simpa using h)
    cases n with
    | zero => simpa [readPastFF] using hb
    | succ n =>
      simp only [readPastFF]
      rw [seq_bind_ok hb, if_neg hc]
      simp
  | succ k ih =>
    obtain ⟨m, rfl⟩ : ∃ m, n = m + 1 := ⟨n - 1, by omega⟩
    have hb := readU8_cons (s := s) (b := 0xFF) (rest := List.replicate k 0xFF ++ c :: rest)
      (by simpa [List.replicate_succ] using h)
    simp only [readPastFF]
    rw [seq_bind_ok hb, if_pos rfl, ih m _ (by omega) rfl]
    simp [Nat.add_comm (k + 1) 1, BitVec.ofNat_add, BitVec.add_assoc]

/-! ### The bit machine -/

/-- Enough bits: no fill (R182, R186). -/
theorem fillBelow_enough {n : Nat} {s : State} (h : (n : Int) ≤ s.bits.count) : fillBelow n s = .ok () s := by
  simp [fillBelow, Int.not_lt.mpr h]

/-- Too few bits: FillBits (R182, R186). -/
theorem fillBelow_short {n : Nat} {s : State} (h : s.bits.count < (n : Int)) : fillBelow n s = fillBits s := by
  simp [fillBelow, h]

/-- FillBits past 24 bits breaks its precondition (R180). -/
theorem fillBits_full {s : State} (h : 24 < s.bits.count) : fillBits s = .error (.fault .fillPrecondition) s := by
  simp [fillBits, h]

/-- Taking a code whose bits are there (R183). -/
theorem takeCode_enough {n : Nat} {s : State} (h : (n : Int) ≤ s.bits.count) :
    takeCode n s = .ok () (s.setBits (s.bits.consume n)) := by
  simp [takeCode, consume, Int.not_lt.mpr h]

/-- A code longer than the bits that are there (R183). -/
theorem takeCode_short {n : Nat} {s : State} (h : s.bits.count < (n : Int)) :
    takeCode n s = .error (.raise .badHuffmanCode) s := by
  simp [takeCode, h]

/-- Raw bits that are there (R186 to R188). -/
theorem rawBits_enough {α : Type} {n : Nat} {f : Nat → α} {d : α} {s : State} (h : (n : Int) ≤ s.bits.count) :
    rawBits n f d s = .ok (f (s.bits.top n)) (s.setBits (s.bits.consume n)) := by
  have hf := fillBelow_enough (s := s) h
  unfold rawBits
  rw [seq_bind_ok hf, look_bind, if_neg (by simpa using h)]
  rfl

/-! ### Parser and step -/

/-- A latched marker is given and cleared (R212). -/
theorem getMarker_latched {s : State} (h : s.bits.marker ≠ 0xFF) :
    getMarker s = .ok s.bits.marker { s with
      bits := { s.bits with marker := 0xFF }, lastMarker := s.bits.marker, lastMarkerValid := true } := by
  unfold getMarker
  rw [look_bind, if_pos h]
  rfl

/-- What an instruction met as a marker does, phase by phase (R210 to R215). -/
theorem atMarker_apply (code : Byte) (header frame : Seq Unit) (s : State) :
    atMarker code header frame s =
      match s.phase with
      | .soi => .error (.raise .noSoi) s
      | .header => header s
      | .frame => frame s
      | .scan => .ok () (s.setBits (s.bits.latch code))
      | .idle => .ok () s
      | .finish => .ok () s
      | .output => .ok () s
      | .done => .ok () s
      | .error => .ok () s := by
  cases h : s.phase <;> simp [atMarker, latchMarker, h]

/-- An outcome that is not held is given as it is. -/
theorem holdFrom_next {s t : State} (h : t.ctl.stallIn = false) : holdFrom s (.next t) = .next t := by
  simp [holdFrom, h]

/-- A held outcome holds the step that began in `s`. -/
theorem holdFrom_held {s t : State} (h : t.ctl.stallIn = true) :
    holdFrom s (.next t) = .next (s.hold (t.bytePos + t.ctl.held - s.bytePos)) := by
  simp [holdFrom, h]

/-- A step with no host write and no issued word is the sequencer's. -/
theorem step_ownTurn {s : State} (h : s.port.writes = [] ∧ s.issue = none) : step s = sequencerStep s := by
  unfold step
  rw [h.1, h.2]

/-- A step with a host write takes it (R86). -/
theorem step_write {s : State} {w : CsrWrite} {rest : List CsrWrite} (h : s.port.writes = w :: rest) :
    step s = hostWrite w { s with port := { s.port with writes := rest } } := by
  unfold step
  rw [h]

/-- A step with an issued word and no host write takes the word (log 7). -/
theorem step_issue {s : State} {e : Enc} (h : s.port.writes = []) (he : s.issue = some e) : step s = issueStep e s := by
  unfold step
  rw [h, he]

end Sys2Proof.Machine
end

