-- ==== Sys2Proof/Laws/PerInstr.lean ====
section
/-! SUPPORT. Family F: one lemma per instruction about its encoding. Each row of the opcode table is encoded at the level it
stands at in spec/30_encoding.md: a marker word, a symbol byte or raw bits, a unit selector, or a word of CTRL. -/

namespace Sys2Proof.Laws.F

/-- The levels of spec/30_encoding.md. -/
inductive Level where
  | marker
  | symbol
  | unit
  | ctrl
  deriving DecidableEq, Repr

/-- The level of an encoded word. -/
def levelOfWord : Enc → Level
  | .marker _ => .marker
  | .dcSym _ => .symbol
  | .acSym _ => .symbol
  | .acpSym _ => .symbol
  | .acrSym _ => .symbol
  | .dcrBit _ => .symbol
  | .mag _ _ => .symbol
  | .unit _ => .unit
  | .ctrl _ => .ctrl

/-- The level of an instruction's row. -/
def levelOf : Instr → Level
  | .soi => .marker
  | .eoi => .marker
  | .rst _ => .marker
  | .sof0 => .marker
  | .sof1 => .marker
  | .sof2 => .marker
  | .dht => .marker
  | .dqt => .marker
  | .sos => .marker
  | .dri => .marker
  | .dnl => .marker
  | .app0 => .marker
  | .app14 => .marker
  | .appn _ => .marker
  | .com => .marker
  | .sof3 => .marker
  | .sof5 => .marker
  | .sof6 => .marker
  | .sof7 => .marker
  | .sof9 => .marker
  | .sof10 => .marker
  | .sof11 => .marker
  | .dac => .marker
  | .sof13 => .marker
  | .sof14 => .marker
  | .sof15 => .marker
  | .dhp => .marker
  | .exp => .marker
  | .stuff => .marker
  | .res _ => .marker
  | .dcDiff _ => .symbol
  | .acCoef _ _ => .symbol
  | .acZrl => .symbol
  | .acEob _ => .symbol
  | .acpCoef _ _ => .symbol
  | .acpZrl => .symbol
  | .acpEobrun _ => .symbol
  | .acrCoef _ => .symbol
  | .acrZrl => .symbol
  | .acrEobrun _ => .symbol
  | .acrBad _ _ => .symbol
  | .dcRefineBit _ => .symbol
  | .mag _ _ => .symbol
  | .blkBaseline => .unit
  | .blkDcFirst => .unit
  | .blkDcRefine => .unit
  | .blkAcFirst => .unit
  | .blkAcRefine => .unit
  | .idct => .unit
  | .dequantIdct => .unit
  | .rs1x1 => .unit
  | .rsV2 => .unit
  | .rsH2 => .unit
  | .rsHv2 => .unit
  | .rsGeneric => .unit
  | .ccGray => .unit
  | .ccRgb => .unit
  | .ccYcbcr => .unit
  | .ccCmyk => .unit
  | .ccYcck => .unit
  | .ccYcbcrK => .unit
  | .restart => .unit
  | .reset => .unit
  | .hufBuild => .unit
  | .fastacBuild => .unit
  | .fill => .unit
  | .decodeHuff => .unit
  | .getBits => .unit
  | .getBit => .unit
  | .receiveExtend => .unit
  | .getMarker => .unit
  | .seekMarker => .unit
  | .ctrlStart _ _ => .ctrl
  | .ctrlAbort _ => .ctrl
  | .ctrlSoftReset _ _ _ => .ctrl
  | .ctrlIrqEn _ => .ctrl

/-- The encoder writes a word of the level of the instruction's row. -/
def Statement (i : Instr) : Prop := levelOfWord (encode i) = levelOf i

end Sys2Proof.Laws.F

namespace Sys2Proof

theorem Laws.F.soi : Laws.F.Statement (.soi) := rfl
theorem Laws.F.eoi : Laws.F.Statement (.eoi) := rfl
theorem Laws.F.rst (m : BitVec 3) : Laws.F.Statement (.rst m) := rfl
theorem Laws.F.sof0 : Laws.F.Statement (.sof0) := rfl
theorem Laws.F.sof1 : Laws.F.Statement (.sof1) := rfl
theorem Laws.F.sof2 : Laws.F.Statement (.sof2) := rfl
theorem Laws.F.dht : Laws.F.Statement (.dht) := rfl
theorem Laws.F.dqt : Laws.F.Statement (.dqt) := rfl
theorem Laws.F.sos : Laws.F.Statement (.sos) := rfl
theorem Laws.F.dri : Laws.F.Statement (.dri) := rfl
theorem Laws.F.dnl : Laws.F.Statement (.dnl) := rfl
theorem Laws.F.app0 : Laws.F.Statement (.app0) := rfl
theorem Laws.F.app14 : Laws.F.Statement (.app14) := rfl
theorem Laws.F.appn (n : BitVec 4) : Laws.F.Statement (.appn n) := rfl
theorem Laws.F.com : Laws.F.Statement (.com) := rfl
theorem Laws.F.sof3 : Laws.F.Statement (.sof3) := rfl
theorem Laws.F.sof5 : Laws.F.Statement (.sof5) := rfl
theorem Laws.F.sof6 : Laws.F.Statement (.sof6) := rfl
theorem Laws.F.sof7 : Laws.F.Statement (.sof7) := rfl
theorem Laws.F.sof9 : Laws.F.Statement (.sof9) := rfl
theorem Laws.F.sof10 : Laws.F.Statement (.sof10) := rfl
theorem Laws.F.sof11 : Laws.F.Statement (.sof11) := rfl
theorem Laws.F.dac : Laws.F.Statement (.dac) := rfl
theorem Laws.F.sof13 : Laws.F.Statement (.sof13) := rfl
theorem Laws.F.sof14 : Laws.F.Statement (.sof14) := rfl
theorem Laws.F.sof15 : Laws.F.Statement (.sof15) := rfl
theorem Laws.F.dhp : Laws.F.Statement (.dhp) := rfl
theorem Laws.F.exp : Laws.F.Statement (.exp) := rfl
theorem Laws.F.stuff : Laws.F.Statement (.stuff) := rfl
theorem Laws.F.res (code : Byte) : Laws.F.Statement (.res code) := rfl
theorem Laws.F.dcDiff (t : BitVec 4) : Laws.F.Statement (.dcDiff t) := rfl
theorem Laws.F.acCoef (r s : BitVec 4) : Laws.F.Statement (.acCoef r s) := rfl
theorem Laws.F.acZrl : Laws.F.Statement (.acZrl) := rfl
theorem Laws.F.acEob (r : BitVec 4) : Laws.F.Statement (.acEob r) := rfl
theorem Laws.F.acpCoef (r s : BitVec 4) : Laws.F.Statement (.acpCoef r s) := rfl
theorem Laws.F.acpZrl : Laws.F.Statement (.acpZrl) := rfl
theorem Laws.F.acpEobrun (r : BitVec 4) : Laws.F.Statement (.acpEobrun r) := rfl
theorem Laws.F.acrCoef (r : BitVec 4) : Laws.F.Statement (.acrCoef r) := rfl
theorem Laws.F.acrZrl : Laws.F.Statement (.acrZrl) := rfl
theorem Laws.F.acrEobrun (r : BitVec 4) : Laws.F.Statement (.acrEobrun r) := rfl
theorem Laws.F.acrBad (r s : BitVec 4) : Laws.F.Statement (.acrBad r s) := rfl
theorem Laws.F.dcRefineBit (b : Bool) : Laws.F.Statement (.dcRefineBit b) := rfl
theorem Laws.F.mag (n : BitVec 4) (v : BitVec 15) : Laws.F.Statement (.mag n v) := rfl
theorem Laws.F.blkBaseline : Laws.F.Statement (.blkBaseline) := rfl
theorem Laws.F.blkDcFirst : Laws.F.Statement (.blkDcFirst) := rfl
theorem Laws.F.blkDcRefine : Laws.F.Statement (.blkDcRefine) := rfl
theorem Laws.F.blkAcFirst : Laws.F.Statement (.blkAcFirst) := rfl
theorem Laws.F.blkAcRefine : Laws.F.Statement (.blkAcRefine) := rfl
theorem Laws.F.idct : Laws.F.Statement (.idct) := rfl
theorem Laws.F.dequantIdct : Laws.F.Statement (.dequantIdct) := rfl
theorem Laws.F.rs1x1 : Laws.F.Statement (.rs1x1) := rfl
theorem Laws.F.rsV2 : Laws.F.Statement (.rsV2) := rfl
theorem Laws.F.rsH2 : Laws.F.Statement (.rsH2) := rfl
theorem Laws.F.rsHv2 : Laws.F.Statement (.rsHv2) := rfl
theorem Laws.F.rsGeneric : Laws.F.Statement (.rsGeneric) := rfl
theorem Laws.F.ccGray : Laws.F.Statement (.ccGray) := rfl
theorem Laws.F.ccRgb : Laws.F.Statement (.ccRgb) := rfl
theorem Laws.F.ccYcbcr : Laws.F.Statement (.ccYcbcr) := rfl
theorem Laws.F.ccCmyk : Laws.F.Statement (.ccCmyk) := rfl
theorem Laws.F.ccYcck : Laws.F.Statement (.ccYcck) := rfl
theorem Laws.F.ccYcbcrK : Laws.F.Statement (.ccYcbcrK) := rfl
theorem Laws.F.restart : Laws.F.Statement (.restart) := rfl
theorem Laws.F.reset : Laws.F.Statement (.reset) := rfl
theorem Laws.F.hufBuild : Laws.F.Statement (.hufBuild) := rfl
theorem Laws.F.fastacBuild : Laws.F.Statement (.fastacBuild) := rfl
theorem Laws.F.fill : Laws.F.Statement (.fill) := rfl
theorem Laws.F.decodeHuff : Laws.F.Statement (.decodeHuff) := rfl
theorem Laws.F.getBits : Laws.F.Statement (.getBits) := rfl
theorem Laws.F.getBit : Laws.F.Statement (.getBit) := rfl
theorem Laws.F.receiveExtend : Laws.F.Statement (.receiveExtend) := rfl
theorem Laws.F.getMarker : Laws.F.Statement (.getMarker) := rfl
theorem Laws.F.seekMarker : Laws.F.Statement (.seekMarker) := rfl
theorem Laws.F.ctrlStart (abort irqEn : Bool) : Laws.F.Statement (.ctrlStart abort irqEn) := rfl
theorem Laws.F.ctrlAbort (irqEn : Bool) : Laws.F.Statement (.ctrlAbort irqEn) := rfl
theorem Laws.F.ctrlSoftReset (start abort irqEn : Bool) : Laws.F.Statement (.ctrlSoftReset start abort irqEn) := rfl
theorem Laws.F.ctrlIrqEn (level : Bool) : Laws.F.Statement (.ctrlIrqEn level) := rfl

end Sys2Proof
end

