-- ==== Sys2Proof/Tests/Slice0.lean ====
section
/-! SUPPORT. The model's own tests: small named theorems on fixed values. Expected results come from the spec: the opcode table and
its encodings (spec/30_encoding.md), the vectors of spec/95_test_vectors.md, and the examples of the rules; the `witness_` theorems
show states and operands that meet the hypotheses of the statements in Sys2Proof/Certificates/Slice0/Obligations.lean. -/

namespace Sys2Proof.Machine

-- The tests are checked one after the other: each waits for the kernel, and many at once need a thread each.
set_option Elab.async false

/-! ### Helpers -/

/-- Whether there is a next state and it has a property. -/
def holds (o : Host.Outcome State Fault Refusal) (p : State → Prop) [DecidablePred p] : Bool :=
  match o with
  | .next t => decide (p t)
  | .fault _ => false
  | .refused _ => false

/-- Something of the next state, if there is one. -/
def after {α : Type} (o : Host.Outcome State Fault Refusal) (f : State → α) : Option α :=
  match o with
  | .next t => some (f t)
  | .fault _ => none
  | .refused _ => none

/-- The model fault of an outcome, if it is one. -/
def faultOf (o : Host.Outcome State Fault Refusal) : Option Fault :=
  match o with
  | .next _ => none
  | .fault f => some f
  | .refused _ => none

/-- A state in a phase, with bytes supplied. -/
def inp (p : Phase) (bytes : List Byte) : State :=
  { State.reset with phase := p, port := { State.reset.port with input := bytes } }

/-- A bit machine with bits at its top. -/
def bitsOf (buffer : BitVec 32) (count : BitVec 8) : BitMachine :=
  { codeBuffer := buffer, codeBits := count, noMoreBits := false, marker := 0xFF }

/-- A loaded table in which every string of bits begins with the one code, of `n` bits, of the symbol `v`. -/
def oneCode (v : Byte) (n : BitVec 5) : HuffTable :=
  { HuffTable.empty with
    loaded := true, fast := Vector.replicate 512 0, size := HuffTable.empty.size.set 0 n
    values := HuffTable.empty.values.set 0 v }

/-- A scan of one component of one block, in an 8 x 8 plane: DC symbol `dv` of 2 bits, AC symbol `av` of 3 bits, every entry of
the quantisation table 3, no fast-AC entry. -/
def blockState (progressive : Bool) (dv av : Byte) (buffer : BitVec 32) : State :=
  { State.reset with
    phase := .scan
    frame := { State.reset.frame with imgN := 1, imgX := 8, imgY := 8, progressive := progressive, mcuX := 1, mcuY := 1 }
    comp := Vector.replicate 4 { Comp.empty with h := 1, v := 1, x := 8, y := 8, w2 := 8, h2 := 8, coeffW := 1, coeffH := 1 }
    planesAllocated := true
    huff := Vector.ofFn (fun tc : Fin 2 => Vector.replicate 4 (if tc = 0 then oneCode dv 2 else oneCode av 3))
    qt := Vector.replicate 4 (Vector.replicate 64 3)
    qtLoaded := Vector.replicate 4 true
    scan := { State.reset.scan with scanN := 1 }
    todo := 100
    bits := bitsOf buffer 32 }

/-- A progressive scan of the band `first` to `last` with the coefficients given (index, value) of the block. -/
def bandState (av : Byte) (buffer : BitVec 32) (first last : Byte) (coefs : Mem 16) : State :=
  let s := blockState true 0 av buffer
  { s with
    scan := { s.scan with specStart := first, specEnd := last }
    comp := s.comp.map (fun c => { c with coef := coefs }) }

/-! ### Well-formedness: an ill-formed term for each check -/

theorem smoke_wf : Instr.wf .soi = true ∧ Instr.wf (.acCoef 15 15) = true ∧ Instr.wf (.mag 15 0x7FFF) = true := by decide
theorem smoke_appn : Instr.wf (.appn 0) = false ∧ Instr.wf (.appn 14) = false ∧ Instr.wf (.appn 15) = true := by decide
theorem smoke_res : Instr.wf (.res 0xFF) = false ∧ Instr.wf (.res 0xD8) = false ∧ Instr.wf (.res 0x00) = false ∧
    Instr.wf (.res 0xC8) = true := by decide
theorem smoke_ac_coef : Instr.wf (.acCoef 3 0) = false ∧ Instr.wf (.acpCoef 3 0) = false := by decide
theorem smoke_eob : Instr.wf (.acEob 15) = false ∧ Instr.wf (.acpEobrun 15) = false ∧ Instr.wf (.acrEobrun 15) = false := by decide
theorem smoke_acr_bad : Instr.wf (.acrBad 2 0) = false ∧ Instr.wf (.acrBad 2 1) = false := by decide
theorem smoke_mag : Instr.wf (.mag 0 0) = false ∧ Instr.wf (.mag 3 8) = false ∧ Instr.wf (.mag 3 7) = true := by decide

/-! ### Decoding: a word of every constructor, from the tables of spec/30_encoding.md -/

/-- R101: the accepted markers. -/
theorem test_decode_accepted :
    decode (.marker 0xFFD8) = .ok .soi ∧ decode (.marker 0xFFD9) = .ok .eoi ∧ decode (.marker 0xFFD3) = .ok (.rst 3) ∧
    decode (.marker 0xFFC0) = .ok .sof0 ∧ decode (.marker 0xFFC1) = .ok .sof1 ∧ decode (.marker 0xFFC2) = .ok .sof2 ∧
    decode (.marker 0xFFC4) = .ok .dht ∧ decode (.marker 0xFFDB) = .ok .dqt ∧ decode (.marker 0xFFDA) = .ok .sos ∧
    decode (.marker 0xFFDD) = .ok .dri ∧ decode (.marker 0xFFDC) = .ok .dnl ∧ decode (.marker 0xFFE0) = .ok .app0 ∧
    decode (.marker 0xFFEE) = .ok .app14 ∧ decode (.marker 0xFFED) = .ok (.appn 13) ∧ decode (.marker 0xFFFE) = .ok .com := by
  decide

/-- R101: the markers of the refused processes, STUFF and RES. -/
theorem test_decode_refused :
    decode (.marker 0xFFC3) = .ok .sof3 ∧ decode (.marker 0xFFC5) = .ok .sof5 ∧ decode (.marker 0xFFC6) = .ok .sof6 ∧
    decode (.marker 0xFFC7) = .ok .sof7 ∧ decode (.marker 0xFFC9) = .ok .sof9 ∧ decode (.marker 0xFFCA) = .ok .sof10 ∧
    decode (.marker 0xFFCB) = .ok .sof11 ∧ decode (.marker 0xFFCC) = .ok .dac ∧ decode (.marker 0xFFCD) = .ok .sof13 ∧
    decode (.marker 0xFFCE) = .ok .sof14 ∧ decode (.marker 0xFFCF) = .ok .sof15 ∧ decode (.marker 0xFFDE) = .ok .dhp ∧
    decode (.marker 0xFFDF) = .ok .exp ∧ decode (.marker 0xFF00) = .ok .stuff ∧ decode (.marker 0xFF02) = .ok (.res 0x02) := by
  decide

/-- R116 to R120, R115: the entropy symbols, bit by bit: run in bits 7:4, category in bits 3:0. -/
theorem test_decode_symbols :
    decode (.dcSym 0b00001011) = .ok (.dcDiff 11) ∧ decode (.acSym 0b00110101) = .ok (.acCoef 3 5) ∧
    decode (.acSym 0b11110000) = .ok .acZrl ∧ decode (.acSym 0b00100000) = .ok (.acEob 2) ∧
    decode (.acpSym 0b00110101) = .ok (.acpCoef 3 5) ∧ decode (.acpSym 0b11110000) = .ok .acpZrl ∧
    decode (.acpSym 0b11100000) = .ok (.acpEobrun 14) ∧ decode (.acrSym 0b01110001) = .ok (.acrCoef 7) ∧
    decode (.acrSym 0b11110000) = .ok .acrZrl ∧ decode (.acrSym 0b00000000) = .ok (.acrEobrun 0) ∧
    decode (.acrSym 0b01000010) = .ok (.acrBad 4 2) ∧ decode (.dcrBit 1) = .ok (.dcRefineBit true) ∧
    decode (.mag 3 0b010) = .ok (.mag 3 2) := by decide

/-- R125: the selectors of the block decoder, the IDCT, the resampler and the colour stage. -/
theorem test_decode_block_selectors :
    decode (.unit 0x10) = .ok .blkBaseline ∧ decode (.unit 0x11) = .ok .blkDcFirst ∧ decode (.unit 0x12) = .ok .blkDcRefine ∧
    decode (.unit 0x13) = .ok .blkAcFirst ∧ decode (.unit 0x14) = .ok .blkAcRefine ∧ decode (.unit 0x20) = .ok .idct ∧
    decode (.unit 0x21) = .ok .dequantIdct ∧ decode (.unit 0x30) = .ok .rs1x1 ∧ decode (.unit 0x31) = .ok .rsV2 ∧
    decode (.unit 0x32) = .ok .rsH2 ∧ decode (.unit 0x33) = .ok .rsHv2 ∧ decode (.unit 0x34) = .ok .rsGeneric ∧
    decode (.unit 0x40) = .ok .ccGray ∧ decode (.unit 0x41) = .ok .ccRgb ∧ decode (.unit 0x42) = .ok .ccYcbcr ∧
    decode (.unit 0x43) = .ok .ccCmyk ∧ decode (.unit 0x44) = .ok .ccYcck ∧ decode (.unit 0x45) = .ok .ccYcbcrK := by decide

/-- R125: the selectors of the restart FSM, the Huffman store, the bit machine and the parser; a reserved one. -/
theorem test_decode_other_selectors :
    decode (.unit 0x50) = .ok .restart ∧ decode (.unit 0x51) = .ok .reset ∧ decode (.unit 0x60) = .ok .hufBuild ∧
    decode (.unit 0x61) = .ok .fastacBuild ∧ decode (.unit 0x70) = .ok .fill ∧ decode (.unit 0x71) = .ok .decodeHuff ∧
    decode (.unit 0x72) = .ok .getBits ∧ decode (.unit 0x73) = .ok .getBit ∧ decode (.unit 0x74) = .ok .receiveExtend ∧
    decode (.unit 0x75) = .ok .getMarker ∧ decode (.unit 0x76) = .ok .seekMarker ∧
    decode (.unit 0x22) = .error .reservedSelector := by decide

/-- R27: the bits of CTRL: START 0, ABORT 1, SOFT_RESET 2, IRQ_EN 3; bits 31:4 ignored. -/
theorem test_decode_ctrl :
    decode (.ctrl 0x9) = .ok (.ctrlStart false true) ∧ decode (.ctrl 0x2) = .ok (.ctrlAbort false) ∧
    decode (.ctrl 0x7) = .ok (.ctrlSoftReset true true false) ∧ decode (.ctrl 0xFFFFFFF8) = .ok (.ctrlIrqEn true) := by decide

/-- R100, R115, R116: the words that are no instruction, by name. -/
theorem test_decode_rejects :
    decode (.marker 0xFFFF) = .error .fillByte ∧ decode (.marker 0x12D8) = .error .notMarker ∧
    decode (.dcSym 0x10) = .error .dcCategory ∧ decode (.mag 0 0) = .error .emptyMagnitude ∧
    decode (.mag 3 8) = .error .magnitudeBits ∧ decodeBytes [0xFF, 0xFF] = .error .truncated := by decide

/-- R100: fill bytes may stand before a code; the bytes after it are left. -/
theorem test_decode_fill_bytes : decodeBytes [0xFF, 0xFF, 0xFF, 0xDB, 0x00] = .ok (.dqt, [0x00]) := by decide

/-- The opcode table's numbering: a marker, a selector and a CTRL value. -/
theorem test_decode_table_word : decodeTableWord 16 0xFFD8 = some .soi ∧ decodeTableWord 8 0x33 = some .rsHv2 ∧
    decodeTableWord 32 0x4 = some (.ctrlSoftReset false false false) ∧ decodeTableWord 8 0xF0 = some .acZrl := by decide

/-- A step runs the word placed by `withFetchWord`. -/
theorem test_with_fetch_word :
    holds (step (State.reset.withFetchWord 16 0xFFD8)) (fun t => t.phase = .header) ∧
    holds (step (State.reset.withFetchWord 8 0x51)) (fun t => t.todo = 0x7FFFFFFF) ∧
    holds (step (State.reset.withFetchWord 32 0x9)) (fun t => t.phase = .soi ∧ t.ctl.irqEn = true) := by decide +kernel

/-! ### Markers (spec/95_test_vectors.md 95.8) -/

/-- R213, R224: SOI ends phase SOI; a second one is UnexpectedMarker. -/
theorem test_soi : holds (exec .soi (inp .soi [])) (fun t => t.phase = .header) ∧
    holds (exec .soi (inp .header [])) (fun t => t.errCode = 5) := by decide +kernel

/-- R250: EOI of a progressive frame leads to FINISH. -/
theorem test_eoi : holds (exec .eoi { inp .frame [] with frame := { State.reset.frame with progressive := true } })
    (fun t => t.phase = .finish) := by
  decide +kernel

/-- M5a: RST in HEADER is UnexpectedMarker. -/
theorem test_rst_in_header : holds (exec (.rst 0) (inp .header [])) (fun t => t.phase = .error ∧ t.errCode = 5) := by
  decide +kernel

/-- T2: a due restart takes RST5 as well as RST0. -/
theorem test_rst_in_scan : holds (exec (.rst 5) { blockState false 0 0 0 with todo := 0, restartInterval := 7 })
    (fun t => t.bits.codeBits = 0 ∧ t.todo = 7) := by decide +kernel

/-- The frame header of stream G of 95.8: 8 x 8, one component (1, 1, 1, 0). -/
theorem test_sof0 : holds (exec .sof0 (inp .header [0x00, 0x0B, 0x08, 0x00, 0x08, 0x00, 0x08, 0x01, 0x01, 0x11, 0x00]))
    (fun t => t.phase = .frame ∧ t.frame.mcuX = 1 ∧ (t.comp.get 0).w2 = 8 ∧ t.port.events = [.geom 8 8 1 8] ∧ t.bytePos = 11) := by
  decide +kernel

/-- M23: sampling factors 3, 2, 1 are refused. -/
theorem test_sof1 : holds (exec .sof1 (inp .header
    [0x00, 0x11, 0x08, 0x00, 0x08, 0x00, 0x08, 0x03, 0x01, 0x31, 0x00, 0x02, 0x21, 0x00, 0x03, 0x11, 0x00]))
    (fun t => t.errCode = 23 ∧ t.errClass = 3 ∧ t.bytePos = 17) := by decide +kernel

/-- SOF2 makes the frame progressive, with a coefficient plane (R236). -/
theorem test_sof2 : holds (exec .sof2 (inp .header [0x00, 0x0B, 0x08, 0x00, 0x08, 0x00, 0x11, 0x01, 0x01, 0x11, 0x00]))
    (fun t => t.frame.progressive = true ∧ (t.comp.get 0).coeffW = 3 ∧ (t.comp.get 0).coeffH = 1) := by decide +kernel

/-- M11a: three codes of length 1 do not fit. -/
theorem test_dht_bad_lengths : holds (exec .dht (inp .header
    ([0x00, 0x16, 0x00, 0x03] ++ List.replicate 15 0x00 ++ [0x00, 0x01, 0x02]))) (fun t => t.errCode = 11 ∧ t.bytePos = 22) := by
  decide +kernel

/-- Program P1's AC table: one code `0` for the symbol 0x00. -/
theorem test_dht : holds (exec .dht (inp .header ([0x00, 0x14, 0x10, 0x01] ++ List.replicate 15 0x00 ++ [0x00])))
    (fun t => (t.huffAt 1 0).loaded = true ∧ at? (t.huffAt 1 0).fast 0xFF 1 = 0 ∧ at? (t.huffAt 1 0).fast 0x100 1 = 255) := by
  decide +kernel

/-- R217: zig-zag position 2 is natural index 8, and position 63 is 63. -/
theorem test_dqt : holds (exec .dqt (inp .frame ([0x00, 0x43, 0x01, 0x10, 0x11, 0x12] ++ List.replicate 60 0x07 ++ [0x63])))
    (fun t => (t.qt.get 1).get 8 = 0x12 ∧ (t.qt.get 1).get 63 = 0x63 ∧ t.qtLoaded.get 1 = true) := by decide +kernel

/-- M7: a precision of 2 is refused. -/
theorem test_dqt_type : holds (exec .dqt (inp .header [0x00, 0x43, 0x20])) (fun t => t.errCode = 7 ∧ t.bytePos = 3) := by
  decide +kernel

/-- M31c: Se = 5 of a sequential scan is forced to 63. -/
theorem test_sos : holds (exec .sos { blockState false 0 0 0 with
      phase := .frame, port := { State.reset.port with input := [0x00, 0x08, 0x01, 0x00, 0x12, 0x00, 0x05, 0x00] } })
    (fun t => t.phase = .scan ∧ t.scan.specEnd = 63 ∧ (t.comp.get 0).hd = 1 ∧ (t.comp.get 0).ha = 2 ∧ t.bits.codeBits = 0) := by
  decide +kernel

/-- M29: a DC table id of 4 is refused. -/
theorem test_sos_table : holds (exec .sos { blockState false 0 0 0 with
      phase := .frame, port := { State.reset.port with input := [0x00, 0x08, 0x01, 0x00, 0x40, 0x00, 0x3F, 0x00] } })
    (fun t => t.errCode = 29 ∧ t.bytePos = 5) := by decide +kernel

/-- R219's example; M13. -/
theorem test_dri : holds (exec .dri (inp .header [0x00, 0x04, 0x00, 0x01])) (fun t => t.restartInterval = 1) ∧
    holds (exec .dri (inp .header [0x00, 0x05, 0x00, 0x01, 0x00])) (fun t => t.errCode = 13 ∧ t.bytePos = 2) := by
  decide +kernel

/-- R249's examples with a height of 8. -/
theorem test_dnl : holds (exec .dnl { inp .frame [0x00, 0x04, 0x00, 0x08] with
      frame := { State.reset.frame with imgY := 8 } }) (fun t => t.phase = .frame ∧ t.bytePos = 4) ∧
    holds (exec .dnl { inp .frame [0x00, 0x04, 0x00, 0x09] with
      frame := { State.reset.frame with imgY := 8 } }) (fun t => t.errCode = 38 ∧ t.bytePos = 4) := by decide +kernel

/-- R221: the JFIF tag. -/
theorem test_app0 : holds (exec .app0 (inp .header [0x00, 0x07, 0x4A, 0x46, 0x49, 0x46, 0x00]))
    (fun t => t.flags.jfif = true ∧ t.port.input = []) := by decide +kernel

/-- R222: the Adobe transform byte is payload byte 11. -/
theorem test_app14 : holds (exec .app14 (inp .header
    [0x00, 0x0E, 0x41, 0x64, 0x6F, 0x62, 0x65, 0x00, 0x64, 0x00, 0x00, 0x00, 0x00, 0x02]))
    (fun t => t.flags.app14Valid = true ∧ t.flags.app14 = 2) := by decide +kernel

/-- R220, R214: a skipped segment in HEADER sets `hdr_pad`. -/
theorem test_appn : holds (exec (.appn 3) (inp .header [0x00, 0x03, 0xAA, 0xBB]))
    (fun t => t.port.input = [0xBB] ∧ t.ctl.hdrPad = true) := by decide +kernel

/-- M14 with COM: a length of 1 is refused. -/
theorem test_com : holds (exec .com (inp .frame [0x00, 0x01])) (fun t => t.errCode = 14 ∧ t.bytePos = 2) := by decide +kernel

/-- M6a, M6b and their like: each unsupported process is refused, in HEADER and in FRAME, reading nothing. -/
theorem test_refused_processes :
    [Instr.sof3, .sof5, .sof6, .sof7, .sof9, .sof10, .sof11, .dac, .sof13, .sof14, .sof15, .dhp, .exp].map
      (fun i => after (exec i (inp .header [0x00])) (fun t => (t.errCode, t.errClass, t.port.input))) =
    List.replicate 13 (some (6, 3, [0x00])) := by decide +kernel

/-- M4a, M4b: reserved codes and FF 00 are unknown markers. -/
theorem test_unknown : holds (exec (.res 2) (inp .header [])) (fun t => t.errCode = 4) ∧
    holds (exec .stuff (inp .header [])) (fun t => t.errCode = 4) := by decide +kernel

/-- R112: inside a scan FF 00 is the data byte 0xFF. -/
theorem test_stuff : holds (exec .stuff { inp .scan [] with bits := bitsOf 0x12000000 8 })
    (fun t => t.bits = (bitsOf 0x12FF0000 16)) := by
  decide +kernel

/-! ### Entropy symbols -/

/-- B7: category 2, bits `01`, with a predictor of 5. -/
theorem test_dc_diff : holds (exec (.dcDiff 2)
      (let s := blockState false 0 0 0x40000000; { s with comp := s.comp.map (fun c => { c with dcPred := 5 }) }))
    (fun t => (t.comp.get 0).dcPred = 3 ∧ t.blk.data.get 0 = 9 ∧ t.blk.k = 1) := by decide +kernel

/-- R276's example: `succ_low` 1, bits `11`. -/
theorem test_dc_diff_progressive : holds (exec (.dcDiff 2)
      (let s := blockState true 0 0 0xC0000000; { s with scan := { s.scan with succLow := 1 } }))
    (fun t => (t.comp.get 0).dcPred = 3 ∧ (t.comp.get 0).coef = [(0, 6)]) := by decide +kernel

/-- R274: a run of 1 from k = 2 reaches zig-zag 3, natural index 16; the bit `0` is -1, times 3. -/
theorem test_ac_coef : holds (exec (.acCoef 1 1)
      (let s := blockState false 0 0 0; { s with blk := { s.blk with k := 2 } }))
    (fun t => t.blk.data.get 16 = 0xFFFD ∧ t.blk.k = 4 ∧ t.bits.codeBits = 31) := by decide +kernel

/-- R274: a run that carries k past 63 writes natural index 63 (B2). -/
theorem test_ac_coef_past_end : holds (exec (.acCoef 2 1)
      (let s := blockState false 0 0 0x80000000; { s with blk := { s.blk with k := 62 } }))
    (fun t => t.blk.data.get 63 = 3 ∧ t.blk.k = 65) := by decide +kernel

/-- R274: ZRL skips 16; every EOB ends the block. -/
theorem test_ac_zrl_eob : holds (exec .acZrl State.reset) (fun t => t.blk.k = 16) ∧
    holds (exec (.acEob 1) State.reset) (fun t => t.blk.done = true) := by decide +kernel

/-- R278's example: `acv 2 -1` at k = 2 writes coefficient 9. -/
theorem test_acp_coef : holds (exec (.acpCoef 2 1)
      (let s := bandState 0 0 1 5 []; { s with blk := { s.blk with k := 2 } })) (fun t => (t.comp.get 0).coef = [(9, 0xFFFF)]) := by
  decide +kernel

/-- R278: ZRL of a first scan. -/
theorem test_acp_zrl : holds (exec .acpZrl State.reset) (fun t => t.blk.k = 16) := by decide +kernel

/-- R279's example: EOB2 with bits `01` sets `eob_run` to 4. -/
theorem test_acp_eobrun : holds (exec (.acpEobrun 2) (bandState 0 0x40000000 1 5 [])) (fun t => t.scan.eobRun = 4) := by
  decide +kernel

/-- R282's example: band 1..3, coefficients (2, 0, 0), sign 1, correction bit 1: (3, 0, 1). -/
theorem test_acr_coef : holds (exec (.acrCoef 1)
      (let s := bandState 0 0xC0000000 1 3 [(1, 2), (8, 0), (16, 0)]; { s with blk := { s.blk with k := 1 } }))
    (fun t => (t.comp.get 0).coef = [(1, 3), (8, 0), (16, 1)] ∧ t.bits.codeBits = 30) := by decide +kernel

/-- R283's examples: -2 becomes -3, and -3 stays. -/
theorem test_acr_zrl : holds (exec .acrZrl
      (let s := bandState 0 0xC0000000 1 2 [(1, 0xFFFE), (8, 0xFFFD)]; { s with blk := { s.blk with k := 1 } }))
    (fun t => (t.comp.get 0).coef = [(1, 0xFFFD), (8, 0xFFFD)] ∧ t.blk.k = 3) := by decide +kernel

/-- R281: EOB1 with bit `1` leaves a run of 2 - 1 + 1. -/
theorem test_acr_eobrun : holds (exec (.acrEobrun 1)
      (let s := bandState 0 0x80000000 1 1 [(1, 0)]; { s with blk := { s.blk with k := 1 } }))
    (fun t => t.scan.eobRun = 2 ∧ t.blk.k = 2) := by decide +kernel

/-- B14: a magnitude of 2 bits in a refinement scan is BadHuffmanCode. -/
theorem test_acr_bad : holds (exec (.acrBad 0 2) (inp .scan [])) (fun t => t.errCode = 34) := by decide +kernel

/-- R277's example: coefficient 6 with bit 1 becomes 7. -/
theorem test_dc_refine_bit : holds (exec (.dcRefineBit true) (bandState 0 0 0 0 [(0, 6)]))
    (fun t => (t.comp.get 0).coef = [(0, 7)]) := by
  decide +kernel

/-- X2, X8: two-bit fields, and `010` of three bits. -/
theorem test_mag : holds (exec (.mag 2 1) State.reset) (fun t => t.unit.result = 0xFFFFFFFE) ∧
    holds (exec (.mag 3 2) State.reset) (fun t => t.unit.result = 0xFFFFFFFB) := by decide +kernel

/-! ### Unit operations -/

/-- R274: DC category 2 of bits `11` and an end of block: 3 times 3. -/
theorem test_blk_baseline : holds (exec .blkBaseline (blockState false 2 0 0x30000000))
    (fun t => t.blk.data.get 0 = 9 ∧ t.blk.done = true ∧ (t.comp.get 0).dcPred = 3 ∧ t.bits.codeBits = 25) := by decide +kernel

/-- H10, B5: a DC symbol of 16 is BadHuffmanCode. -/
theorem test_blk_baseline_bad : holds (exec .blkBaseline (blockState false 16 0 0)) (fun t => t.errCode = 34) := by decide +kernel

/-- R276: the DC, and 64 written coefficients. -/
theorem test_blk_dc_first : holds (exec .blkDcFirst (blockState true 2 0 0x30000000))
    (fun t => (t.comp.get 0).coef.head? = some (0, 3) ∧ (t.comp.get 0).coef.length = 64) := by decide +kernel

/-- B9: Se = 1 of a DC scan is BadProgressiveScan. -/
theorem test_blk_dc_first_band : holds (exec .blkDcFirst (bandState 0 0 0 1 [])) (fun t => t.errCode = 35) := by decide +kernel

/-- R277; B10: before any DC first scan, the model fault UnwrittenCoefficient. -/
theorem test_blk_dc_refine : holds (exec .blkDcRefine (bandState 0 0x80000000 0 0 [(0, 6)]))
    (fun t => (t.comp.get 0).coef = [(0, 7)]) ∧ faultOf (exec .blkDcRefine (bandState 0 0 0 0 [])) = some .unwrittenCoefficient := by
  decide +kernel

/-- R278: a block inside an EOB run is skipped. -/
theorem test_blk_ac_first_run : holds (exec .blkAcFirst
      (let s := bandState 0 0 1 5 []; { s with scan := { s.scan with eobRun := 4 } }))
    (fun t => t.scan.eobRun = 3 ∧ t.bits.codeBits = 32 ∧ (t.comp.get 0).coef = []) := by decide +kernel

/-- R279: EOB2 (symbol 0x20, then bits `01`) as the first symbol. -/
theorem test_blk_ac_first : holds (exec .blkAcFirst (bandState 0x20 0x08000000 1 5 []))
    (fun t => t.scan.eobRun = 4 ∧ t.bits.codeBits = 27) := by
  decide +kernel

/-- R280: a block inside an EOB run reads a correction bit for its nonzero coefficient only. -/
theorem test_blk_ac_refine_run : holds (exec .blkAcRefine
      (let s := bandState 0 0x80000000 1 2 [(1, 2), (8, 0)]; { s with scan := { s.scan with eobRun := 1 } }))
    (fun t => t.scan.eobRun = 0 ∧ t.bits.codeBits = 31 ∧ (t.comp.get 0).coef = [(1, 3), (8, 0)]) := by decide +kernel

/-- R282's example as a block: the code, the sign 1, the correction bit 1. -/
theorem test_blk_ac_refine : holds (exec .blkAcRefine (bandState 0x11 0x18000000 1 3 [(1, 2), (8, 0), (16, 0)]))
    (fun t => (t.comp.get 0).coef = [(1, 3), (8, 0), (16, 1)] ∧ t.blk.k = 4) := by decide +kernel

/-- A block buffer with a few coefficients. -/
def dataOf (l : List (Nat × BitVec 16)) : State :=
  { State.reset with blk := { State.reset.blk with data := l.foldl (fun d p => put d p.1 p.2) (Vector.replicate 64 0) } }

/-- I3: `d[1]` = 100; I9's first row: the wrap of the row pass changes pixels. -/
theorem test_idct :
    holds (exec .idct (dataOf [(1, 100)]))
    (fun t => (t.blk.px.toList.take 8).map BitVec.toNat = [145, 143, 138, 131, 125, 118, 113, 111]) ∧
    holds (exec .idct (dataOf ((List.range 8).map (fun i => (i, 32767)))))
    (fun t => (t.blk.px.toList.take 8).map BitVec.toNat = [0, 0, 255, 0, 255, 0, 255, 255]) := by
  decide +kernel

/-- R340, the second row of its first example. -/
theorem test_idct_example : holds (exec .idct (dataOf [(0, 3), (1, 1), (16, 0xFFFF)]))
    (fun t => ((t.blk.px.toList.drop 32).take 8).map BitVec.toNat = [129, 129, 129, 129, 128, 128, 128, 128]) := by
  decide +kernel

/-- R286, R338: a DC of 8 with Q = 3 gives 131 everywhere, placed, and the finish ends. -/
theorem test_dequant_idct : holds (exec .dequantIdct
      { bandState 0 0 0 0 ((List.range 64).map (fun i => (i, if i = 0 then 8 else 0))) with phase := .finish })
    (fun t => (t.comp.get 0).plane.read 63 = some 131 ∧ t.sample 0 7 7 = some 131 ∧ t.phase = .output ∧ t.pos.fk = 1) := by
  decide +kernel

/-- A resampler call on rows for component 1, with `hs` = 3. -/
def rowsOf (near far : List Byte) : State :=
  { State.reset with
    unit := { UnitPort.empty with comp := 1, inNear := near, inFar := far }
    rs := State.reset.rs.set 1 { Resampler.empty with hs := 3 } }

/-- The line buffer of component 1 after a kernel, as numbers. -/
def lineOf (i : Instr) (s : State) : Option (List Nat) :=
  after (exec i s) (fun t => (t.rs.get 1).lineBuf.map BitVec.toNat)

/-- S1, S2. -/
theorem test_rs_1x1_v2 : lineOf .rs1x1 (rowsOf [10, 20, 30] []) = some [10, 20, 30] ∧
    lineOf .rsV2 (rowsOf [10, 20, 30] [50, 60, 70]) = some [20, 30, 40] := by decide +kernel

/-- S3 to S6. -/
theorem test_rs_h2 : lineOf .rsH2 (rowsOf [10, 20, 30] []) = some [10, 13, 18, 23, 23, 30] ∧
    lineOf .rsH2 (rowsOf [10, 20] []) = some [10, 13, 13, 20] ∧ lineOf .rsH2 (rowsOf [10] []) = some [10, 10] ∧
    lineOf .rsH2 (rowsOf [0, 100, 200, 40] []) = some [0, 25, 75, 125, 175, 160, 160, 40] := by decide +kernel

/-- S7 to S9. -/
theorem test_rs_hv2 : lineOf .rsHv2 (rowsOf [10, 20, 30] [50, 60, 70]) = some [20, 23, 28, 33, 38, 40] ∧
    lineOf .rsHv2 (rowsOf [10] [50]) = some [20, 20] ∧ lineOf .rsHv2 (rowsOf [0, 255] [255, 0]) = some [64, 96, 159, 191] := by
  decide +kernel

/-- S10. -/
theorem test_rs_generic : lineOf .rsGeneric (rowsOf [10, 20] []) = some [10, 10, 10, 20, 20, 20] := by decide +kernel

/-- The pixel of a conversion, as numbers. -/
def pixelOf (i : Instr) (a b c d : Byte) : Option (List Nat) :=
  after (exec i { State.reset with unit := { UnitPort.empty with samples := #v[a, b, c, d] } })
    (fun t => t.unit.pixel.map BitVec.toNat)

/-- R373, R374. -/
theorem test_cc_gray_rgb : pixelOf .ccGray 0x80 1 2 3 = some [0x80] ∧ pixelOf .ccRgb 10 20 30 9 = some [10, 20, 30] := by
  decide +kernel

/-- The table of R375, and the vectors of 95.7. -/
theorem test_cc_ycbcr : pixelOf .ccYcbcr 100 50 200 0 = some [201, 75, 0] ∧ pixelOf .ccYcbcr 150 44 21 0 = some [0, 255, 1] ∧
    pixelOf .ccYcbcr 0 255 255 0 = some [178, 0, 225] ∧ pixelOf .ccYcbcr 255 0 0 0 = some [76, 255, 28] := by decide +kernel

/-- R376's examples. -/
theorem test_cc_cmyk : pixelOf .ccCmyk 255 128 0 255 = some [255, 128, 0] ∧
    pixelOf .ccCmyk 200 200 200 128 = some [100, 100, 100] := by decide +kernel

/-- R377's example. -/
theorem test_cc_ycck : pixelOf .ccYcck 100 50 200 128 = some [27, 90, 128] := by decide +kernel

/-- R378's example. -/
theorem test_cc_ycbcr_k : pixelOf .ccYcbcrK 128 128 128 7 = some [128, 128, 128] := by decide +kernel

/-- R310's example. -/
theorem test_reset : holds (exec .reset { State.reset with bits := bitsOf 0xF8000000 5, restartInterval := 9 })
    (fun t => t.bits.codeBits = 0 ∧ t.bits.codeBuffer = 0 ∧ t.todo = 9) := by decide +kernel

/-- R313's example (T1), and an EOI where a restart is due (T5). -/
theorem test_restart :
    holds (exec .restart { inp .scan [0xFF, 0xD0] with bits := bitsOf 0xE0000000 3, todo := 1, restartInterval := 1 })
      (fun t => t.todo = 1 ∧ t.bits.marker = 0xFF ∧ t.bytePos = 2) ∧
    holds (exec .restart { inp .scan [0xFF, 0xD9] with bits := bitsOf 0xE0000000 3, todo := 1, restartInterval := 1 })
      (fun t => t.errCode = 36 ∧ t.todo = 0 ∧ t.bits.marker = 0xD9) := by decide +kernel

/-- T7: the last MCU is exempt. -/
theorem test_restart_last : holds (exec .restart { inp .scan [] with todo := 1, unit := { UnitPort.empty with last := true } })
    (fun t => t.todo = 0 ∧ t.phase = .scan) := by decide +kernel

/-- A HUF_BUILD call of table (0, 0). -/
def buildOf (counts : List Byte) : State :=
  { State.reset with unit := { UnitPort.empty with counts := Vector.ofFn (fun i : Fin 16 => counts.getD i.val 0) } }

/-- H1: DC0: code, size, delta, maxcode and a fast slot. -/
theorem test_huf_build : holds (exec .hufBuild (buildOf [0, 1, 5, 1, 1, 1, 1, 1, 1]))
    (fun t => at? (t.huffAt 0 0).code 11 0 = 0b111111110 ∧ at? (t.huffAt 0 0).size 11 0 = 9 ∧
      at? (t.huffAt 0 0).delta 2 0 = 0xFFFFFFFF ∧ at? (t.huffAt 0 0).maxcode 2 0 = 0xE000) := by decide +kernel

/-- H1: the fast slot of the last code of DC0. -/
theorem test_huf_build_fast : holds (exec .hufBuild (buildOf [0, 1, 5, 1, 1, 1, 1, 1, 1]))
    (fun t => at? (t.huffAt 0 0).fast 0x1FE 0 = 11) := by decide +kernel

/-- H6: counts that do not fit, and counts that just fit. -/
theorem test_huf_build_lengths : holds (exec .hufBuild (buildOf [0, 5])) (fun t => t.errCode = 11) ∧
    holds (exec .hufBuild (buildOf [0, 4])) (fun t => t.errCode = 0 ∧ at? (t.huffAt 0 0).maxcode 1 0 = 0x10000) := by
  decide +kernel

/-- R155: with a code of 3 bits for the symbol 0x11, the next bit is the magnitude: for 0 the value -1, run 1, 4 bits (as in H4). -/
theorem test_fastac_build : holds (exec .fastacBuild (State.reset.setHuff 1 0 (oneCode 0x11 3)))
    (fun t => at? (t.fastAc.get 0) 0x100 0 = 0xFF14) := by decide +kernel

/-- F1, F2. -/
theorem test_fill : holds (exec .fill (inp .scan [0x12, 0xFF, 0x00, 0x34, 0x56]))
    (fun t => t.bits = bitsOf 0x12FF3456 32 ∧ t.bytePos = 5) ∧
    holds (exec .fill (inp .scan [0xAB, 0xFF, 0xD0]))
    (fun t => t.bits = { codeBuffer := 0xAB000000, codeBits := 8, noMoreBits := true, marker := 0xD0 } ∧ t.bytePos = 3) := by
  decide +kernel

/-- F4, F6. -/
theorem test_fill_ends : holds (exec .fill (inp .scan [0xFF, 0xFF, 0x00, 0x41, 0x42, 0x43]))
    (fun t => t.bits.codeBuffer = 0xFF414243) ∧
    holds (exec .fill { inp .scan [0x12] with port := { State.reset.port with input := [0x12], eos := true } })
      (fun t => t.errCode = 1 ∧ t.bits.codeBits = 8 ∧ t.bytePos = 1) := by decide +kernel

/-- H7 with a table of one code; H9: a code longer than the bits there is BadHuffmanCode. -/
theorem test_decode_huff : holds (exec .decodeHuff (blockState false 0xAB 0 0))
    (fun t => t.unit.result = 0xAB ∧ t.bits.codeBits = 30) ∧
    holds (exec .decodeHuff { blockState false 0xAB 0 0 with
        bits := { codeBuffer := 0, codeBits := 1, noMoreBits := false, marker := 0xFF }
        port := { State.reset.port with input := [0xFF, 0xD9] } }) (fun t => t.errCode = 34 ∧ t.bits.marker = 0xD9) := by
  decide +kernel

/-- F7, F8. -/
theorem test_get_bits :
    holds (exec .getBits { inp .scan [0xFF, 0xD0] with unit := { UnitPort.empty with n := 3 } })
      (fun t => t.unit.result = 0 ∧ t.bits.codeBits = 0 ∧ t.bits.marker = 0xD0 ∧ t.bytePos = 2) ∧
    holds (exec .getBits { inp .scan [] with
        unit := { UnitPort.empty with n := 3 }, bits := { bitsOf 0 0 with noMoreBits := true, marker := 0xD0 } })
      (fun t => t.unit.result = 0 ∧ t.bits.codeBits = 29) := by decide +kernel

/-- F9. -/
theorem test_get_bit : holds (exec .getBit { State.reset with bits := bitsOf 0x80000000 1 })
    (fun t => t.unit.result = 1 ∧ t.bits.codeBits = 0) := by decide +kernel

/-- X3, X9. -/
theorem test_receive_extend :
    holds (exec .receiveExtend { State.reset with bits := bitsOf 0x60000000 3, unit := { UnitPort.empty with n := 3 } })
      (fun t => t.unit.result = 0xFFFFFFFC) ∧
    holds (exec .receiveExtend { State.reset with
        bits := { codeBuffer := 0xC0000000, codeBits := 2, noMoreBits := true, marker := 0xD9 }
        unit := { UnitPort.empty with n := 5 } }) (fun t => t.unit.result = 24 ∧ t.bits.codeBits = 21) := by decide +kernel

/-- K1, K4. -/
theorem test_get_marker : holds (exec .getMarker (inp .header [0xFF, 0xFF, 0xFF, 0xDB]))
      (fun t => t.unit.result = 0xDB ∧ t.bytePos = 4 ∧ t.lastMarker = 0xDB) ∧
    holds (exec .getMarker { State.reset with bits := { bitsOf 0 0 with marker := 0xD9 } })
      (fun t => t.unit.result = 0xD9 ∧ t.bits.marker = 0xFF ∧ t.bytePos = 0) := by decide +kernel

/-- K5, K6. -/
theorem test_seek_marker : holds (exec .seekMarker (inp .scan [0x12, 0xFF, 0x00, 0xFF, 0xD9]))
      (fun t => t.bits.marker = 0xD9 ∧ t.bytePos = 5) ∧
    holds (exec .seekMarker { inp .scan [] with port := { State.reset.port with input := [0x12, 0x34], eos := true } })
      (fun t => t.errCode = 1 ∧ t.bytePos = 2) := by decide +kernel

/-! ### Host commands and the CSR window (spec/95_test_vectors.md 95.10) -/

/-- C2, and C6: START while BUSY is ignored. -/
theorem test_ctrl_start : holds (exec (.ctrlStart false true) State.reset)
    (fun t => t.csrRead 0x04 = some 0x101 ∧ t.csrRead 0x00 = some 8 ∧ t.irq = false) ∧
    holds (exec (.ctrlStart false true) (inp .frame [0x55])) (fun t => t.phase = .frame ∧ t.port.input = [0x55]) := by
  decide +kernel

/-- R451: bytes offered for the old image and never requested are no bytes of the next one; its SOI step waits for byte 0. -/
theorem test_start_drops_old_bytes :
    holds (step { inp .done [0x00, 0x00] with port :=
        { State.reset.port with input := [0x00, 0x00], eos := true, writes := [{ offset := 0, value := 1 }] } })
      (fun t => t.phase = .soi ∧ t.port.input = [] ∧ t.port.eos = false ∧ holds (step t) (fun u => u.csrRead 0x04 = some 0x111)) := by
  decide +kernel

/-- C7, and C8's request. -/
theorem test_ctrl_abort : holds (exec (.ctrlAbort false) State.reset) (fun t => t.csrRead 0x04 = (some 0)) ∧
    holds (exec (.ctrlAbort true) (inp .soi [])) (fun t => t.csrRead 0x04 = (some 0x141)) := by decide +kernel

/-- C10: the bytes the held step has consumed stay consumed; C11. -/
theorem test_ctrl_soft_reset :
    holds (exec (.ctrlSoftReset false false false) { inp .header [1, 2, 3] with
        ctl := { State.reset.ctl with stallIn := true, held := 2 } }) (fun t => t.csrRead 0x04 = some 0 ∧ t.port.input = [3]) ∧
    holds (exec (.ctrlSoftReset true false false) (inp .output []))
    (fun t => t.csrRead 0x04 = some 0x101 ∧ t.csrRead 0x14 = some 0) := by
  decide +kernel

/-- C4: a write of 0 drops the interrupt of a DONE decode. -/
theorem test_ctrl_irq_en :
    let done : State := { inp .done [] with ctl := { State.reset.ctl with irqEn := true } }
    done.irq = true ∧ holds (exec (.ctrlIrqEn false) done) (fun t => t.irq = false) := by decide +kernel

/-- C13: a write elsewhere than CTRL is ignored; an access that is not aligned is not offered. -/
theorem test_csr_writes :
    holds (step { State.reset with port := { State.reset.port with writes := [{ offset := 4, value := 0xFFFFFFFF }] } })
      (fun t => t.csrRead 0x04 = some 0 ∧ t.csrRead 0x24 = some 0) ∧ State.reset.csrRead 0x02 = none := by decide +kernel

/-- C9: an ABORT while the SOI step waits for byte 0 is taken at the start of the next step. -/
theorem test_held_step :
    holds (step (inp .soi [])) (fun t => t.csrRead 0x04 = (some 0x111)) ∧
    holds (step { inp .soi [0xFF] with ctl := { State.reset.ctl with abortReq := true, stallIn := true } })
      (fun t => t.csrRead 0x04 = some 0x151 ∧ t.csrRead 0x14 = some 1) ∧
    holds (step { inp .header [] with ctl := { State.reset.ctl with abortReq := true } })
      (fun t => t.csrRead 0x08 = some 0x427 ∧ t.csrRead 0x04 = some 0x804) := by decide +kernel

/-- R91, R71, R11: a frame header that waits for its component count: only BYTE_POS and STALL_IN move; IMG_SIZE and LAST_MARKER are
those of the last completed step. -/
theorem test_held_view :
    holds (step (inp .header [0xFF, 0xC0, 0x00, 0x0B, 0x08, 0x00, 0x10, 0x00, 0x18])) (fun t =>
      t.csrRead 0x04 = some 0x211 ∧ t.csrRead 0x0C = some 0 ∧ t.csrRead 0x14 = some 9 ∧ t.csrRead 0x1C = some 0) := by
  decide +kernel

/-- C19: IMG_INFO of an RGB frame in DONE; R31: so in OUTPUT before its first row, and bit 17 is 0 before OUTPUT. -/
theorem test_img_info :
    let s : State := { inp .done [] with
      frame := { State.reset.frame with imgN := 3, outN := 3 }, flags := { State.reset.flags with rgbIds := 3 } }
    s.csrRead 0x10 = some 0x2001B ∧ ({ s with phase := .output } : State).csrRead 0x10 = some 0x2001B ∧
      ({ s with phase := .scan } : State).csrRead 0x10 = some 0x1B := by decide +kernel

/-- A row that the host has not accepted keeps the step waiting (C3: STATUS 0x629 during the stall). -/
theorem test_row_waits :
    let s : State := { inp .output [] with rowPending := some (0, [0x80]), ctl := { State.reset.ctl with geomValid := true } }
    holds (step s) (fun t => t.csrRead 0x04 = (some 0x629)) ∧
    holds (step { s with port := { s.port with rowAccepts := 1 } })
    (fun t => t.port.events = [.row 0 [0x80]] ∧ t.pos.oj = 1 ∧ t.rowPending = none) := by
  decide +kernel

/-! ### Witnesses: states and operands that meet the hypotheses of the statements, clause by clause -/

/-- DecodeOfEncode, at the ends of the operands. -/
theorem witness_decode_of_encode : Instr.wf (.acCoef 15 15) = true ∧ Instr.wf (.mag 1 1) = true ∧
    Instr.wf (.mag 15 0x7FFF) = true ∧ Instr.wf (.ctrlSoftReset true true true) = true := by decide

/-- EncodeOfDecode. -/
theorem witness_encode_of_decode : decode (.acSym 0xFF) = .ok (.acCoef 15 15) ∧ decode (.ctrl 0xFFFFFFFF) =
    .ok (.ctrlSoftReset true true true) := by decide

/-- StepRunsDecoded: a host write, an issued word, a latched marker, a marker in the stream with two fill bytes. -/
theorem witness_step_runs_decoded :
    ({ State.reset with port := { State.reset.port with writes := [{ offset := 0, value := 0xFFFFFFFF }] } } : State).port.writes =
      [{ offset := 0, value := 0xFFFFFFFF }] ∧
    decode (.unit 0x10) = .ok .blkBaseline ∧
    ({ inp .frame [] with bits := { bitsOf 0 0 with marker := 0xD9 } } : State).bits.marker ≠ 0xFF ∧ decodeCode 0xD9 = .ok .eoi ∧
    (inp .header [0xFF, 0xFF, 0xFF, 0x00, 0x55]).port.input = markerBytes 2 0x00 ++ [0x55] ∧ decodeCode 0x00 = .ok .stuff ∧
    (inp .header []).OwnTurn ∧ (inp .header []).cancels = false := by decide +kernel

/-- CancellationTaken: every busy phase, and a waiting one. -/
theorem witness_cancellation :
    let s : State := { inp .output [] with ctl := { State.reset.ctl with abortReq := true } }
    s.OwnTurn ∧ s.phase.busy = true ∧ s.ctl.abortReq = true ∧ s.ctl.stallIn = false ∧ s.rowPending = none ∧
      State.reset.OwnTurn ∧ State.reset.phase = .idle := by decide +kernel

/-- PhaseGraph, InvariantKept: a step from a state that meets the invariant. -/
theorem witness_step : (inp .soi [0xFF, 0xD8]).OwnTurn ∧ (inp .soi [0xFF, 0xD8]).bits.Ok ∧
    holds (step (inp .soi [0xFF, 0xD8])) (fun t => t.phase = .header) := by decide +kernel

/-- InvariantKept: every plane of a state with one written sample is in canonical form. -/
theorem witness_invariant : (blockState false 0 0 0xFFFFFFFF).Inv := by
  refine ⟨by decide +kernel, by decide +kernel, ?_⟩
  intro c
  revert c
  decide +kernel

/-- ErrorRecordKept: in phase ERROR, and in another. -/
theorem witness_error_recorded : (State.reset.takeError .cancelled).ErrorRecorded ∧ State.reset.ErrorRecorded ∧
    State.reset.issue = none := by
  refine ⟨?_, ?_, rfl⟩
  · exact (if_pos (rfl : (State.reset.takeError .cancelled).phase = .error)).mpr ⟨.cancelled, rfl, rfl⟩
  · exact (if_neg (by decide : ¬State.reset.phase = .error)).mpr ⟨rfl, rfl⟩

/-- StartCommand, AbortAndIrqCommands: a waiting and a busy phase. -/
theorem witness_commands : State.reset.phase = .idle ∧ (inp .soi []).phase.busy = true ∧ (inp .output []).phase.busy = true ∧
    (inp .error []).phase.busy = false := by decide

/-- OtherCsrFields: the first and the last unlisted offset, a misaligned one, and a write that is ignored. -/
theorem witness_csr : (0x24 ≤ (0x24 : BitVec 6).toNat ∧ (0x24 : BitVec 6).toNat % 4 = 0) ∧
    (0x24 ≤ (0x3C : BitVec 6).toNat ∧ (0x3C : BitVec 6).toNat % 4 = 0) ∧ (0x3F : BitVec 6).toNat % 4 ≠ 0 ∧
    ({ State.reset with port := { State.reset.port with writes := [{ offset := 4, value := 1 }] } } : State).port.writes =
      [{ offset := 4, value := 1 }] ∧ (4 : BitVec 6) ≠ 0 ∧ (4 : BitVec 6).toNat % 4 = 0 := by decide +kernel

/-- RefusedProcesses, MisplacedMarkers, ImageMarkers: the phases. UnknownMarkers: 0x00 and the ends of the reserved ranges. -/
theorem witness_unknown : (inp .header []).phase = .header ∧ (inp .frame []).phase = .frame ∧ (inp .soi []).phase = .soi ∧
    decodeCode 0x00 = .ok .stuff ∧ (resCode 0x01 = true ∧ decodeCode 0x01 = .ok (.res 0x01)) ∧
    (resCode 0xBF = true ∧ decodeCode 0xBF = .ok (.res 0xBF)) ∧ (resCode 0xC8 = true ∧ decodeCode 0xC8 = .ok (.res 0xC8)) ∧
    (resCode 0xFD = true ∧ decodeCode 0xFD = .ok (.res 0xFD)) := by decide +kernel

/-- MissingMarkers, its five clauses. -/
theorem witness_missing_markers :
    ((inp .header []).OwnTurn ∧ (inp .header []).cancels = false ∧ (inp .header []).bits.marker = 0xFF ∧
      (inp .header []).port.input = [] ∧ (inp .frame [0xFF]).port.input = [0xFF]) ∧
    ((inp .soi [0x00]).OwnTurn ∧ (inp .soi [0x00]).cancels = false ∧ (inp .soi [0x00]).bits.marker = 0xFF) ∧
    ((inp .header [0xFE]).ctl.hdrPad = false ∧ (inp .header [0xFE]).port.input = 0xFE :: [] ∧ (0xFE : Byte) ≠ 0xFF) ∧
    ((inp .soi [0xFF, 0xD9]).port.input = markerBytes 0 0xD9 ++ [] ∧ (0xD9 : Byte) ≠ 0xFF ∧ (0xD9 : Byte) ≠ 0xD8) ∧
    (let s : State := { inp .header [0x00, 0x12, 0xFF, 0xDD] with ctl := { State.reset.ctl with hdrPad := true } };
      s.OwnTurn ∧ s.cancels = false ∧ s.bits.marker = 0xFF ∧ s.phase = .header ∧ s.ctl.hdrPad = true ∧
        (∀ b ∈ [(0x00 : Byte), 0x12], b ≠ 0xFF) ∧ s.port.input = [0x00, 0x12] ++ (markerBytes 0 0xDD ++ []) ∧
        decodeCode 0xDD = .ok .dri) := by decide +kernel

/-- MarkersInsideScan: after the last MCU, a due restart, a data byte with 24 bits there, a marker that is latched. -/
theorem witness_markers_in_scan :
    (let s := inp .scan []; s.phase = .scan ∧ s.scanDone = true) ∧
    (let s : State := { blockState false 0 0 0 with todo := 0 }; s.phase = .scan ∧ s.scanDone = false ∧ s.todo.toInt ≤ 0) ∧
    (let s : State := { inp .scan [] with bits := bitsOf 0 24 }; s.phase = .scan ∧ s.bits.count ≤ 24) ∧
    (let s := blockState false 0 0 0;
      s.phase = .scan ∧ encode (.rst 7) = .marker 0xFFD7 ∧ Instr.rst 7 ≠ .stuff ∧ s.scanDone = false ∧ 0 < s.todo.toInt) := by
  decide +kernel

/-- RestartIntervalSet and LineCountConfirmed: the greatest interval, a wrong length, a matching and another height. -/
theorem witness_dri_dnl :
    (inp .frame [0x00, 0x04, 0xFF, 0xFF]).port.input = 0x00 :: 0x04 :: 0xFF :: 0xFF :: [] ∧
    (inp .header [0x00, 0x03]).port.input = 0x00 :: 0x03 :: [] ∧ ((0x00 : Byte) ++ (0x03 : Byte) : BitVec 16) ≠ 4 ∧
    (inp .frame [0x00, 0x04, 0x00, 0x08]).port.input = 0x00 :: 0x04 :: 0x00 :: 0x08 :: [] ∧
    ((0x00 : Byte) ++ (0x04 : Byte) : BitVec 16) = 4 ∧ ((0x00 : Byte) ++ (0x08 : Byte) : BitVec 16) ≠ State.reset.frame.imgY := by
  decide +kernel

/-- A definition of 8-bit entries, and one of 16-bit entries, of the same table. -/
def twoDefs : List QuantDef :=
  [{ wide := false, id := 3, entries := Vector.replicate 64 0x00FF }, { wide := true, id := 3, entries := Vector.replicate 64 0x1234 }]

/-- QuantTablesLoaded: two definitions of table 3, 65 and 129 bytes; the second is its last. -/
theorem witness_dqt : (twoDefs.flatMap QuantDef.bytes).length = 194 ∧
    ((0x00 : Byte) ++ (0xC4 : Byte) : BitVec 16).toNat = 2 + (twoDefs.flatMap QuantDef.bytes).length ∧
    (inp .header (0x00 :: 0xC4 :: (twoDefs.flatMap QuantDef.bytes ++ []))).port.input =
      0x00 :: 0xC4 :: (twoDefs.flatMap QuantDef.bytes ++ []) ∧ (∀ d ∈ twoDefs, d.id ≠ 0) := by decide +kernel

/-- QuantTablesLoaded, the errors: a length of 1; a precision of 2 and a table id of 4, first and after a definition; a length that ends
inside the first definition, and one byte before the end of the second. -/
theorem witness_dqt_errors :
    ((0x00 : Byte) ++ (0x01 : Byte) : BitVec 16).toNat < 2 ∧ 1 < (0x20 : Byte).toNat / 16 ∧
    ((0x14 : Byte).toNat / 16 ≤ 1 ∧ 3 < (0x14 : Byte).toNat % 16) ∧
    2 + (([] : List QuantDef).flatMap QuantDef.bytes).length < ((0x00 : Byte) ++ (0x03 : Byte) : BitVec 16).toNat ∧
    2 + ((twoDefs.take 1).flatMap QuantDef.bytes).length < ((0x00 : Byte) ++ (0x44 : Byte) : BitVec 16).toNat ∧
    (twoDefs = twoDefs.take 1 ++ [twoDefs.getD 1 (twoDefs.getD 0 { wide := true, id := 0, entries := Vector.replicate 64 0 })] ∧
      2 + ((twoDefs.take 1).flatMap QuantDef.bytes).length < 195 ∧ 195 < 2 + (twoDefs.flatMap QuantDef.bytes).length) ∧
    (inp .header (0x00 :: 0x44 :: ((twoDefs.take 1).flatMap QuantDef.bytes ++ 0x20 :: []))).port.input =
      0x00 :: 0x44 :: ((twoDefs.take 1).flatMap QuantDef.bytes ++ 0x20 :: []) := by decide +kernel

/-- DC0's counts, the single table of two 1-bit codes, and the empty table fit (H1, H6). -/
theorem witness_valid_counts :
    ValidCounts (Vector.ofFn (fun i : Fin 16 => ([0, 1, 5, 1, 1, 1, 1, 1, 1] : List Byte).getD i.val 0)) ∧
    ValidCounts (Vector.replicate 16 0) ∧
    ¬ValidCounts (Vector.ofFn (fun i : Fin 16 => ([2, 0, 1] : List Byte).getD i.val 0)) := by decide +kernel

/-- Definitions of an AC table, a DC table, and the AC table again. -/
def threeDefs : List HuffDef :=
  [{ tc := 1, th := 3, counts := (Vector.replicate 16 0).set 0 1, values := [0xAB] },
   { tc := 0, th := 0, counts := (Vector.replicate 16 0).set 1 2, values := [1, 2] },
   { tc := 1, th := 3, counts := Vector.replicate 16 0, values := [] }]

/-- HuffmanTableLoaded: no definition, with a length of 2, and three of 18, 19 and 17 bytes; the last one of a table counts. -/
theorem witness_dht : (∀ d ∈ threeDefs, d.Valid) ∧
    ((0x00 : Byte) ++ (0x38 : Byte) : BitVec 16).toNat = 2 + (threeDefs.flatMap HuffDef.bytes).length ∧
    ((0x00 : Byte) ++ (0x02 : Byte) : BitVec 16).toNat = 2 + (([] : List HuffDef).flatMap HuffDef.bytes).length ∧
    lastDef 1 3 threeDefs = threeDefs[2]? ∧ lastDef 1 0 threeDefs = none ∧
    (inp .frame (0x00 :: 0x38 :: (threeDefs.flatMap HuffDef.bytes ++ []))).port.input =
      0x00 :: 0x38 :: (threeDefs.flatMap HuffDef.bytes ++ []) := by decide +kernel

/-- R218: two definitions in one segment are both loaded; one of length 2 loads nothing. -/
theorem test_dht_several :
    holds (exec .dht (inp .header (0x00 :: 0x27 :: (threeDefs.take 2).flatMap HuffDef.bytes)))
      (fun t => (t.huffAt 1 3).nsym = 1 ∧ (t.huffAt 0 0).nsym = 2 ∧ (t.huffAt 0 0).loaded = true ∧ t.bytePos = 39) ∧
    holds (exec .dht (inp .header [0x00, 0x02])) (fun t => t.phase = .header ∧ (t.huffAt 0 0).loaded = false) := by decide +kernel

/-- HuffmanTableLoaded, the errors: a length of 1; a class of 2, an id of 4; 257 codes; codes that do not fit; a length that ends
after the first byte of a definition that R151 accepts, of 256 codes; an error after two definitions. -/
theorem witness_dht_errors :
    let full : Vector Byte 16 := (Vector.replicate 16 0).set 15 0xFF
    ((0x00 : Byte) ++ (0x01 : Byte) : BitVec 16).toNat < 2 ∧
    (1 < (0x20 : Byte).toNat / 16 ∧ 3 < (0x04 : Byte).toNat % 16 ∧ (0x13 : Byte).toNat / 16 ≤ 1 ∧ (0x13 : Byte).toNat % 16 ≤ 3) ∧
    256 < countSum (full.set 0 2) ∧
    (countSum (full.set 0 1) ≤ 256 ∧ ValidCounts (full.set 0 1) ∧ 3 < 2 + 17 + countSum (full.set 0 1)) ∧
    (countSum ((Vector.replicate 16 0).set 0 3) ≤ 256 ∧ ¬ValidCounts ((Vector.replicate 16 0).set 0 3)) ∧
    (2 + ((threeDefs.take 2).flatMap HuffDef.bytes).length < ((0x00 : Byte) ++ (0x28 : Byte) : BitVec 16).toNat ∧
      (inp .header (0x00 :: 0x28 :: ((threeDefs.take 2).flatMap HuffDef.bytes ++ 0x20 :: []))).port.input =
        0x00 :: 0x28 :: ((threeDefs.take 2).flatMap HuffDef.bytes ++ 0x20 :: [])) := by decide +kernel

/-- AppSegments: the empty payload, a JFIF and an Adobe payload at their least lengths, a length of 1. -/
theorem witness_app :
    ((0x00 : Byte) ++ (0x02 : Byte) : BitVec 16).toNat = 2 + ([] : List Byte).length ∧
    ((0x00 : Byte) ++ (0x07 : Byte) : BitVec 16).toNat = 2 + ([0x4A, 0x46, 0x49, 0x46, 0x00] : List Byte).length ∧
    ((0x00 : Byte) ++ (0x0E : Byte) : BitVec 16).toNat =
      2 + ([0x41, 0x64, 0x6F, 0x62, 0x65, 0x00, 0, 0, 0, 0, 0, 2] : List Byte).length ∧
    ((0x00 : Byte) ++ (0x01 : Byte) : BitVec 16).toNat < 2 := by decide +kernel

/-- Three components, 4:2:0, ids 'R', 'G', 'B'. -/
def threeSpecs : List CompSpec := [⟨0x52, 0x22, 0x00⟩, ⟨0x47, 0x11, 0x01⟩, ⟨0x42, 0x11, 0x03⟩]

/-- FrameHeaderAccepted: a frame of 17 x 9 with three components, sequential and progressive. -/
theorem witness_sof : FrameAccepted Config.standard threeSpecs 17 9 false ∧ FrameAccepted Config.standard threeSpecs 17 9 true ∧
    ((0x00 : Byte) ++ (0x11 : Byte) : BitVec 16).toNat = 17 ∧ rgbCount threeSpecs = 3 ∧
    (inp .header (0x00 :: BitVec.ofNat 8 (8 + 3 * threeSpecs.length) :: 0x08 :: 0x00 :: 0x09 :: 0x00 :: 0x11 ::
      BitVec.ofNat 8 threeSpecs.length :: (specBytes threeSpecs ++ []))).port.input =
      0x00 :: BitVec.ofNat 8 (8 + 3 * threeSpecs.length) :: 0x08 :: 0x00 :: 0x09 :: 0x00 :: 0x11 ::
      BitVec.ofNat 8 threeSpecs.length :: (specBytes threeSpecs ++ []) := by decide +kernel

/-- FrameFieldErrors: a value for each clause, at the boundary of its range. -/
theorem witness_sof_errors :
    ((0x00 : Byte) ++ (0x0A : Byte) : BitVec 16).toNat < 11 ∧ 11 ≤ ((0x00 : Byte) ++ (0x0B : Byte) : BitVec 16).toNat ∧
    (0x09 : Byte) ≠ 8 ∧ ((0x00 : Byte) ++ (0x00 : Byte) : BitVec 16) = 0 ∧ ((0x00 : Byte) ++ (0x01 : Byte) : BitVec 16) ≠ 0 ∧
    ((2 : Byte) ≠ 1 ∧ (2 : Byte) ≠ 3 ∧ (2 : Byte) ≠ 4) ∧
    ((0x00 : Byte) ++ (0x0C : Byte) : BitVec 16).toNat ≠ 8 + 3 * (1 : Byte).toNat ∧
    (inp .header [0x00, 0x0B, 0x08, 0x00, 0x01, 0x00, 0x01, 0x02]).port.input =
      0x00 :: 0x0B :: 0x08 :: 0x00 :: 0x01 :: 0x00 :: 0x01 :: 0x02 :: [] := by decide +kernel

/-- FrameFieldErrors, the component specifications: after a legal first one, factors of 0 and of 5, and a table id of 4. -/
theorem witness_sof_components :
    let cs : List CompSpec := threeSpecs.take 1
    (∀ c ∈ cs, c.Legal) ∧ cs.length < 3 ∧
    ((⟨1, 0x01, 0⟩ : CompSpec).h = 0 ∧ 4 < (⟨1, 0x51, 0⟩ : CompSpec).h) ∧
    ((⟨1, 0x40, 0⟩ : CompSpec).v = 0 ∧ (⟨1, 0x40, 0⟩ : CompSpec).h ≤ 4 ∧ 4 < (⟨1, 0x15, 0⟩ : CompSpec).v) ∧
    (1 ≤ (⟨1, 0x44, 4⟩ : CompSpec).v ∧ (⟨1, 0x44, 4⟩ : CompSpec).v ≤ 4 ∧ 3 < (⟨1, 0x44, 4⟩ : CompSpec).tq.toNat) ∧
    (inp .header (0x00 :: 0x11 :: 0x08 :: 0 :: 9 :: 0 :: 17 :: 3 :: (specBytes cs ++ 1 :: 0x01 :: 0 :: []))).port.input =
      0x00 :: BitVec.ofNat 8 (8 + 3 * 3) :: 0x08 :: 0 :: 9 :: 0 :: 17 :: BitVec.ofNat 8 3 :: (specBytes cs ++ 1 :: 0x01 :: 0 :: []) := by
  decide +kernel

/-- FrameFieldErrors, the sizes: too many samples; factors 3 and 2; a plane too large when the samples just fit; planes that do
not fit in the plane memory together. -/
theorem witness_sof_sizes :
    let one : List CompSpec := [⟨1, 0x11, 0⟩]
    let odd : List CompSpec := [⟨1, 0x31, 0⟩, ⟨2, 0x21, 0⟩, ⟨3, 0x11, 0⟩]
    let small : Config := { Config.standard with maxAllocBytes := 64, planeMemBytes := 63 }
    (∀ c ∈ odd, c.Legal) ∧ odd.length = 3 ∧ IntegerRatios one ∧ ¬IntegerRatios odd ∧
    (small.maxAllocBytes < 65 * 1 * 1 ∧ 17 * 9 * 3 ≤ Config.standard.maxAllocBytes) ∧
    (64 * 1 * 1 ≤ small.maxAllocBytes ∧ ∃ c ∈ one, small.maxAllocBytes < planeBytes one 64 1 false c) ∧
    (8 * 8 * 1 ≤ small.maxAllocBytes ∧ (∀ c ∈ one, planeBytes one 8 8 false c ≤ small.maxAllocBytes) ∧
      small.planeMemBytes < (one.map (planeBytes one 8 8 false)).sum) := by decide +kernel

/-- A frame of three components with ids 1, 2, 3 and every table loaded. -/
def threeState (progressive : Bool) : State :=
  let s := blockState progressive 0 0 0
  { s with
    phase := .frame, frame := { s.frame with imgN := 3 }
    comp := ((s.comp.set 0 { s.comp.get 0 with id := 1 }).set 1 { s.comp.get 0 with id := 2 }).set 2 { s.comp.get 0 with id := 3 } }

/-- `threeState` without DC table 1. -/
def noTableState (progressive : Bool) : State := (threeState progressive).setHuff 0 1 HuffTable.empty

/-- `threeState` with a second component that names quantisation table 2, not loaded. -/
def noQuantState : State :=
  let s := threeState false
  { s with comp := s.comp.set 1 { s.comp.get 1 with tq := 2 }, qtLoaded := s.qtLoaded.set 2 false }

/-- `threeState` with STRICT_BASELINE_SE. -/
def strictState : State :=
  let s := threeState false
  { s with cfg := { s.cfg with strictBaselineSpecEnd := true } }

/-- A scan that lists component 1 twice. -/
def twice : List (Fin 4 × Byte) := [(1, 0x33), (2, 0x00), (1, 0x12)]

/-- StartOfScanAccepted: a sequential scan of three listings, one component twice: its second tables are those it keeps. -/
theorem witness_sos : (threeState false).phase = .frame ∧ twice.length ≤ (threeState false).frame.imgN.toNat ∧
    (∀ p ∈ twice, (threeState false).LegalBinding p) ∧ lastBinding 1 twice = 0x12 := by decide +kernel

/-- StartOfScanAccepted: the parameters and the tables of that scan. -/
theorem witness_sos_tables : (threeState false).LegalParameters 0 5 0 ∧
    (∀ p ∈ twice, (threeState false).HuffmanPresent 0 0 (lastBinding p.1 twice)) ∧
    (∀ p ∈ twice, (threeState false).QuantPresent p.1) :=
  ⟨by decide +kernel, by decide +kernel, by decide +kernel⟩

/-- StartOfScanAccepted: the bytes of that scan; a progressive AC refinement scan with its parameters at their bounds. -/
theorem witness_sos_forms : (threeState false).bindingBytes twice = [2, 0x33, 3, 0x00, 2, 0x12] ∧
    (threeState true).LegalParameters 0x3F 0x3F 0xDD ∧ (threeState true).HuffmanPresent 0x3F 0xDD 0x32 ∧
    (threeState true).QuantPresent 0 := by decide +kernel

/-- StartOfScanAccepted, the errors of the count, the length and the bindings: counts 0 and 5, and one above the frame's; an unknown
id; table ids of 4. -/
theorem witness_sos_errors :
    (¬1 ≤ (0 : Byte).toNat ∧ ¬(5 : Byte).toNat ≤ 4 ∧ ¬(4 : Byte).toNat ≤ (threeState false).frame.imgN.toNat) ∧
    (3 : Byte).toNat ≤ (threeState false).frame.imgN.toNat ∧
    ((0x00 : Byte) ++ (0x0D : Byte) : BitVec 16).toNat ≠ 6 + 2 * (3 : Byte).toNat ∧
    (threeState false).findComp 9 = none ∧ (threeState false).findComp 2 ≠ none ∧
    (3 < (0x40 : Byte).toNat / 16 ∧ (0x34 : Byte).toNat / 16 ≤ 3 ∧ 3 < (0x34 : Byte).toNat % 16) := by decide +kernel

/-- StartOfScanAccepted, the parameters refused in a progressive frame: Ss above Se, Se of 64, Ah and Al of 14. -/
theorem witness_sos_progressive : ¬(threeState true).LegalParameters 2 1 0 ∧ ¬(threeState true).LegalParameters 1 64 0 ∧
    ¬(threeState true).LegalParameters 0 0 0xE0 ∧ ¬(threeState true).LegalParameters 0 0 0x0E := by decide +kernel

/-- StartOfScanAccepted, the parameters refused in a sequential frame: Ss, Ah, Al, and with STRICT_BASELINE_SE an Se of 62. -/
theorem witness_sos_sequential : ¬(threeState false).LegalParameters 1 63 0 ∧ ¬(threeState false).LegalParameters 0 63 0x10 ∧
    ¬(threeState false).LegalParameters 0 63 0x01 ∧ ¬strictState.LegalParameters 0 62 0 := by decide +kernel

/-- StartOfScanAccepted: a second component without its DC table; one that a progressive DC first scan needs and a refinement scan
does not. -/
theorem witness_sos_no_table : (noTableState false).HuffmanPresent 0 0 0x00 ∧ (noTableState false).QuantPresent 0 ∧
    ¬(noTableState false).HuffmanPresent 0 0 0x10 ∧ ¬(noTableState true).HuffmanPresent 0 0x00 0x10 ∧
    (noTableState true).HuffmanPresent 0 0x10 0x10 := by decide +kernel

/-- StartOfScanAccepted: a second component without its quantisation table. -/
theorem witness_sos_no_quant : noQuantState.HuffmanPresent 0 0 0x10 ∧ noQuantState.QuantPresent 0 ∧
    ¬noQuantState.QuantPresent 1 := by decide +kernel

/-- SegmentFrames, EntropyFrames: instructions that answer a next state. -/
theorem witness_frames : holds (exec .dri (inp .header [0x00, 0x04, 0x00, 0x01])) (fun t => t.phase = .header) ∧
    holds (exec .sof0 (inp .frame [])) (fun t => t.phase = .error) ∧ holds (exec .sos (inp .frame [])) (fun t => t.ctl.stallIn = true) ∧
    holds (exec .fill (inp .scan [])) (fun t => t.ctl.stallIn = true) ∧
    holds (exec .blkAcFirst (bandState 0 0 1 5 [])) (fun t => t.blk.done = true) := by decide +kernel

/-- AppendedAndConsumedBits, and the bounds of the other bit statements. -/
theorem witness_bits : (bitsOf 0xABCDEF00 24).Ok ∧ (bitsOf 0xABCDEF00 24).count ≤ 24 ∧ (bitsOf 0xFFFFFFFF 32).Ok ∧
    ((32 : Nat) : Int) ≤ (bitsOf 0xFFFFFFFF 32).count ∧ (bitsOf 0 0).Ok := by decide +kernel

/-- FillEffect: after a marker with 24 bits there; four data bytes, one of them stuffed after a fill byte; a marker after three
bytes. -/
theorem witness_fill :
    (let s : State := { inp .scan [] with bits := { bitsOf 0 24 with noMoreBits := true } };
      0 ≤ s.bits.count ∧ s.bits.count ≤ 24 ∧ s.bits.noMoreBits = true) ∧
    (let ds : List (Byte × Nat) := [(0x12, 0), (0xFF, 1), (0x34, 0), (0x56, 0)];
      let s := inp .scan [0x12, 0xFF, 0xFF, 0x00, 0x34, 0x56, 0x78];
      0 ≤ s.bits.count ∧ s.bits.noMoreBits = false ∧ ds.length = (24 - s.bits.count.toNat) / 8 + 1 ∧
        s.port.input = ecsBytes ds ++ [0x78]) ∧
    (let ds : List (Byte × Nat) := [(0x12, 0), (0xFF, 0), (0x34, 0)];
      let s := inp .scan [0x12, 0xFF, 0x00, 0x34, 0xFF, 0xFF, 0xD9];
      ds.length ≤ (24 - s.bits.count.toNat) / 8 ∧ s.port.input = ecsBytes ds ++ (markerBytes 1 0xD9 ++ [])) := by decide +kernel

/-- RawBitsTaken with as many bits as there are; ShortRawBits with one bit too few, with two data bytes before the marker, and none. -/
theorem witness_raw_bits :
    (let s : State := { State.reset with bits := bitsOf 0x80000000 31, unit := { UnitPort.empty with n := 31 } };
      s.unit.n.toNat = 31 ∧ ((31 : Nat) : Int) ≤ s.bits.count ∧ s.bits.count ≤ 32) ∧
    (let s : State := { inp .scan [0xFF, 0xD0] with bits := bitsOf 0x80000000 2, unit := { UnitPort.empty with n := 3 } };
      0 ≤ s.bits.count ∧ s.bits.count + 8 * (([] : List (Byte × Nat)).length : Int) < s.unit.n.toNat ∧ s.bits.noMoreBits = false ∧
        s.port.input = ecsBytes [] ++ (markerBytes 0 0xD0 ++ [])) ∧
    (let s : State := { inp .scan [0xFF, 0x00, 0x12, 0xFF, 0xD9] with bits := bitsOf 0x80000000 1, unit := { UnitPort.empty with n := 18 } };
      let ds : List (Byte × Nat) := [(0xFF, 0), (0x12, 0)];
      s.bits.count + 8 * (ds.length : Int) < s.unit.n.toNat ∧ ds.length ≤ (24 - s.bits.count.toNat) / 8 ∧
        s.port.input = ecsBytes ds ++ (markerBytes 0 0xD9 ++ [])) ∧ State.reset.bits.count < 1 := by decide +kernel

/-- MagnitudeValues at its ends. -/
theorem witness_magnitude : (1 : BitVec 15).toNat < 2 ^ (1 : BitVec 4).toNat ∧ (0x7FFF : BitVec 15).toNat < 2 ^ (15 : BitVec 4).toNat ∧
    magnitude 15 0x7FFF = 32767 ∧ magnitude 15 0 = -32767 := by decide +kernel

/-- A table with no fast entry: codes of `n` bits all accepted, or none when `n` is 17. -/
def slowTable (n : Nat) : HuffTable :=
  { HuffTable.empty with
    loaded := true, fast := Vector.replicate 512 255
    maxcode := Vector.ofFn (fun i : Fin 17 => if i.val + 1 < n then 0 else 0x10000) }

/-- HuffmanSymbolDecoded: with 16 bits there, a fast symbol; a length found, of 16 bits; and none. -/
theorem witness_decode_huff :
    (blockState false 0xAB 0 0).NextSymbol 0 0 0xAB 2 ∧ ((2 : Nat) : Int) ≤ (blockState false 0xAB 0 0).bits.count ∧
    (at? (slowTable 16).fast 0 255 = 255 ∧ (∀ l : Fin 16, 9 ≤ l.val → at? (slowTable 16).maxcode (l.val - 1) 0 = 0) ∧
      0 < (at? (slowTable 16).maxcode 15 0).toNat ∧ ((bitsOf 0 16).top 16 : Int) + (at? (slowTable 16).delta 15 0).toInt = 0) ∧
    (∀ l : Fin 17, 9 ≤ l.val → (at? (slowTable 17).maxcode (l.val - 1) 0).toNat ≤ (bitsOf 0 16).top 16) := by decide +kernel

/-- HuffmanSymbolDecoded: with 15 bits there, the fill that comes first: zero bytes after a marker; two data bytes; a marker next. -/
theorem witness_filled :
    (let s : State := { inp .scan [] with bits := { bitsOf 0 15 with noMoreBits := true, marker := 0xD9 } };
      s.FilledTo 16 { s.unheld with bits := { s.bits with codeBits := 31 } }) ∧
    (let s : State := { inp .scan [0xFF, 0x00, 0x12, 0x34] with bits := bitsOf 0 15 };
      s.FilledTo 16 { s.unheld.consumed 3 with bits := s.bits.appendAll [(0xFF, 0), (0x12, 0)] }) ∧
    (let s : State := { inp .scan [0xFF, 0xD9] with bits := bitsOf 0 15 };
      s.FilledTo 16 { s.unheld.consumed 2 with bits := { s.bits with marker := 0xD9, noMoreBits := true } }) := by
  refine ⟨?_, ?_, ?_⟩ <;> refine (if_neg (by decide)).mpr ⟨by decide, ?_⟩
  · exact Or.inl ⟨rfl, rfl⟩
  · exact Or.inr (Or.inl ⟨rfl, [(0xFF, 0), (0x12, 0)], [0x34], rfl, rfl, rfl⟩)
  · exact Or.inr (Or.inr ⟨rfl, [], 0, 0xD9, [], by decide, by decide, by decide, rfl, rfl⟩)

/-- HuffmanSymbolDecoded, where it fails: a fast code of 2 bits with 1 there before a marker; a length of 16 with 15 there; an index
above 255. -/
theorem witness_decode_huff_fails :
    (let f : State := { blockState false 0xAB 0 0 with bits := { bitsOf 0 1 with noMoreBits := true, marker := 0xD9 } };
      f.NextSymbol 0 0 0xAB 2 ∧ f.bits.count < 2) ∧
    (at? (slowTable 16).fast 0 255 = 255 ∧ (bitsOf 0 15).count < 16) ∧
    (255 : Int) < ((bitsOf 0x10000000 16).top 16 : Int) + (at? (slowTable 16).delta 15 0).toInt := by decide +kernel

/-- FastTableLaw, CanonicalRoundTrip, CodeLengthsRefused: counts and an index; FastAcEntries: a loaded table. -/
theorem witness_huf_build :
    (let counts : Vector Byte 16 := (Vector.replicate 16 0).set 0 1;
      ValidCounts counts ∧ countAt counts 7 ≠ 256 ∧ 0 < countSum counts) ∧
    (let counts : Vector Byte 16 := (Vector.replicate 16 0).set 1 5; countSum counts ≤ 256 ∧ ¬ValidCounts counts) ∧
    ((State.reset.setHuff 1 0 (oneCode 0 1)).huffAt 1 0).loaded = true := by decide +kernel

/-- CanonicalRoundTrip: the table that HUF_BUILD leaves from one code of length 1, and that code as the next bit. -/
theorem witness_round_trip :
    holds (exec .hufBuild (buildOf [1])) (fun t =>
      (bitsOf 0 16).top (at? (t.huffAt 0 0).size 0 0).toNat = (at? (t.huffAt 0 0).code 0 0).toNat ∧
        16 ≤ (bitsOf 0 16).count ∧ (bitsOf 0 16).count ≤ 32) := by decide +kernel

/-- MarkersRead: a latched marker, one with a fill byte, no marker, and a search past a stuffed byte. -/
theorem witness_markers_read :
    ({ State.reset with bits := { bitsOf 0 0 with marker := 0x01 } } : State).bits.marker ≠ 0xFF ∧
    (inp .header [0xFF, 0xFF, 0xDB]).port.input = markerBytes 1 0xDB ++ [] ∧ (inp .header [0x00]).port.input = 0x00 :: [] ∧
    (inp .scan [0x12, 0xFF, 0x00, 0xFF, 0xD9]).port.input = ecsBytes [(0x12, 0), (0xFF, 0)] ++ (markerBytes 0 0xD9 ++ []) := by
  decide +kernel

/-- DcDifferenceTaken and the AC symbols: sequential and progressive, with the greatest category. -/
theorem witness_symbols :
    (let s := blockState false 0 0 0xFFFFFFFF;
      ((15 : BitVec 4).toNat : Int) ≤ s.bits.count ∧ s.bits.count ≤ 32 ∧ s.frame.progressive = false ∧
        s.qtLoaded.get s.qTable = true) ∧
    (let s := blockState true 0 0 0xFFFFFFFF;
      s.frame.progressive = true ∧ s.inCoef s.blockComp s.blockNum 0 = true ∧ s.inCoef s.blockComp s.blockNum 63 = true) := by
  decide +kernel

/-- The coefficients of a band of three positions: a nonzero one, then two that are 0 (the example of R282). -/
def bandCo (j : Nat) : BitVec 16 := if j = 1 then 2 else 0

/-- The block of that example at its first position. -/
def bandExample : State :=
  let b := bandState 0 0xC0000000 1 3 [(1, 2), (8, 0), (16, 0)]
  { b with blk := { b.blk with k := 1 } }

/-- RefinementSymbols: the band of R282's example; a run of 1 stops at its last position, one of 2 and that of ZRL past it. -/
theorem witness_refinement : bandExample.BandIs bandCo 1 3 ∧ StopsAt bandCo 1 3 1 3 ∧ StopsAt bandCo 1 3 2 4 ∧
    StopsAt bandCo 1 3 15 4 ∧ nonzeros bandCo 1 4 = 1 ∧ nonzeros bandCo 1 1 = 0 ∧ 3 ≤ bandExample.bits.count ∧
    bandExample.bits.count ≤ 32 ∧ (63 : Byte).toNat ≤ 63 := by
  refine ⟨fun j h1 h2 => ?_, by decide +kernel, by decide +kernel, by decide +kernel, by decide +kernel, by decide +kernel,
    by decide +kernel, by decide +kernel, by decide +kernel⟩
  have : j = 1 ∨ j = 2 ∨ j = 3 := by omega
  rcases this with rfl | rfl | rfl <;> decide +kernel

/-- AcBlocks: a band inside a run with one nonzero coefficient among others; a first symbol 0x11 whose coefficient ends the band. -/
theorem witness_refine_blocks :
    (let s : State := { bandExample with scan := { bandExample.scan with eobRun := 1 } };
      s.scan.eobRun ≠ 0 ∧ s.scan.specEnd.toNat ≤ 63 ∧ (nonzeros bandCo 1 4 : Int) ≤ s.bits.count ∧ s.bits.count ≤ 32) ∧
    (let s := bandState 0x11 0x18000000 1 3 [(1, 2), (8, 0), (16, 0)];
      s.scan.eobRun = 0 ∧ 16 ≤ s.bits.count ∧ s.NextSymbol 1 s.acTable 0x11 3 ∧ decode (.acrSym 0x11) = .ok (.acrCoef 1) ∧
        holds (exec (.acrCoef 1) { s.unheld with
          bits := s.bits.consume 3, blk := { s.blk with k := s.scan.specStart.toNat, done := false } })
          (fun t => t.ctl.stallIn = false ∧ s.scan.specEnd.toNat < t.blk.k)) := by decide +kernel

/-- DcRefinementAndBadSymbols, ProgressiveDcBlocks: a written and an unwritten DC coefficient; a band beyond DC. -/
theorem witness_dc_refine :
    (let s := bandState 0 0 0 0 [(0, 6)];
      s.coefficient s.blockComp s.blockNum 0 = some 6 ∧ s.scan.specEnd = 0 ∧ 16 ≤ s.bits.count ∧ s.bits.count ≤ 32) ∧
    (let s := bandState 0 0 0 0 [];
      s.inCoef s.blockComp s.blockNum 0 = true ∧ s.coefficient s.blockComp s.blockNum 0 = none) ∧
    (bandState 0 0 0 1 []).scan.specEnd ≠ 0 := by decide +kernel

/-- BaselineBlocks: category 11 (2 bits and 11), then an end of block; with every fast-AC entry -1 of 3 bits, a coefficient first. -/
theorem witness_blk_baseline :
    (let s := blockState false 11 0 0;
      s.NextSymbol 0 s.dcTable ((11 : BitVec 4).zeroExtend 8) 2 ∧ s.qtLoaded.get s.qTable = true ∧
        ((2 : Nat) : Int) + (11 : BitVec 4).toNat + 16 ≤ s.bits.count ∧ at? (s.fastAc.get s.acTable) 0 0 = 0 ∧
        s.NextSymbol 1 s.acTable 0 3 ∧ (0 : Byte).toNat % 16 = 0 ∧ (0 : Byte) ≠ 0xF0) ∧
    (let s : State := { blockState false 11 0 0 with
        fastAc := Vector.replicate 4 ((Vector.replicate 512 0xFF03).set 0 0), bits := bitsOf 0x00040000 32 };
      ((2 : Nat) : Int) + (11 : BitVec 4).toNat + fastLen 0xFF03 + 16 ≤ s.bits.count ∧
        at? (s.fastAc.get s.acTable) (((s.bits.consume 2).consume 11).top 9) 0 = 0xFF03 ∧
        at? (s.fastAc.get s.acTable) ((((s.bits.consume 2).consume 11).consume 3).top 9) 0 = 0) := by decide +kernel

/-- ProgressiveDcBlocks: a DC symbol of category 15 with its bits. -/
theorem witness_blk_dc_first :
    let s := blockState true 15 0 0
    s.scan.specEnd = 0 ∧ s.inCoef s.blockComp s.blockNum 0 = true ∧ 16 ≤ s.bits.count ∧
      s.NextSymbol 0 s.dcTable ((15 : BitVec 4).zeroExtend 8) 2 ∧ ((2 : Nat) : Int) + (15 : BitVec 4).toNat ≤ s.bits.count := by
  decide +kernel

/-- AcBlocks: an EOB run with a band of zeros and with one nonzero coefficient; EOB0 and EOB14; a fast coefficient that ends the
band. -/
theorem witness_ac_blocks :
    (let s : State :=
        let b := bandState 0 0 1 1 [(1, 0)];
        { b with scan := { b.scan with eobRun := 1 } };
      s.scan.eobRun ≠ 0 ∧ s.coefficient s.blockComp s.blockNum (dezigzag 1).val = some 0) ∧
    (let s : State :=
        let b := bandState 0 0 63 63 [(63, 0x8000)];
        { b with scan := { b.scan with eobRun := 1 } };
      s.scan.specStart = s.scan.specEnd ∧ s.coefficient s.blockComp s.blockNum (dezigzag s.scan.specStart.toNat).val = some 0x8000 ∧
        1 ≤ s.bits.count ∧ (0x8000 : BitVec 16) ≠ 0) ∧
    (let s := bandState 0xE0 0 63 63 [(63, 0)];
      s.scan.eobRun = 0 ∧ s.NextSymbol 1 s.acTable (BitVec.ofNat 8 (16 * 14)) 3 ∧ ((3 : Nat) : Int) + (14 : Nat) ≤ s.bits.count ∧
        at? (s.fastAc.get s.acTable) (s.bits.top 9) 0 = 0 ∧
        s.coefficient s.blockComp s.blockNum (dezigzag 63).val = some 0) ∧
    (let s : State := { bandState 0 0 1 1 [] with fastAc := Vector.replicate 4 (Vector.replicate 512 0xFF03) };
      (s.huffAt 1 s.acTable).loaded = true ∧ at? (s.fastAc.get s.acTable) (s.bits.top 9) 0 = 0xFF03 ∧
        s.scan.specEnd.toNat ≤ s.scan.specStart.toNat + fastRun 0xFF03 ∧
        s.inCoef s.blockComp s.blockNum (dezigzag (s.scan.specStart.toNat + fastRun 0xFF03)).val = true) := by decide +kernel

/-- IdctOfFlatBlocks: a DC-only block; a column whose rows 1 to 7 are 0. -/
theorem witness_idct : (∀ i : Fin 64, i ≠ 0 → (dataOf [(0, 0x8000)]).blk.data.get i = 0) ∧
    columnFlat (dataOf [(0, 0x8000)]).blk.data 0 = true := by decide +kernel

/-- FinishBlockPlaced: the one block of a plane with every coefficient written; a component without its table. -/
theorem witness_finish :
    (let s : State := { bandState 0 0 0 0 ((List.range 64).map (fun i => (i, 7))) with phase := .finish };
      s.qtLoaded.get 0 = true ∧ s.pos.fj.toNat < (s.comp.get 0).gridH ∧ s.pos.fk.toNat < s.frame.imgN.toNat ∧
        (∀ z : Fin 64, s.coefficient 0 0 z.val = some 7) ∧ (∀ y x : Fin 8, s.inPlane 0 y.val x.val = true)) ∧
    State.reset.qtLoaded.get 0 = false := by decide +kernel

/-- ResampleKernels: rows of one and of two samples. -/
theorem witness_resample : (rowsOf [10] [50]).unit.inFar.length = (rowsOf [10] [50]).unit.inNear.length ∧
    1 ≤ (rowsOf [10] [50]).unit.inNear.length ∧ 2 ≤ (rowsOf [10, 20] [50, 60]).unit.inNear.length := by decide +kernel

/-- RestartMachine: not due; the last MCU; due with a latched marker, an empty bit machine after it, or 24 bits; with a marker
next; with data next; with a latched EOI after which no bits come, at both ends of the counts. -/
theorem witness_restart :
    (0 < ((2 : BitVec 32) - 1).toInt ∧ ((1 : BitVec 32) - 1).toInt ≤ 0 ∧ ((0x80000001 : BitVec 32) - 1).toInt ≤ 0) ∧
    (let b : BitMachine := { codeBuffer := 0, codeBits := 0, noMoreBits := true, marker := 0xD7 };
      0xD0 ≤ b.marker.toNat ∧ b.marker.toNat ≤ 0xD7 ∧ 0 ≤ b.count ∧ b.noMoreBits = true) ∧
    (24 ≤ (bitsOf 0 24).count ∧ ¬(0xD0 ≤ (bitsOf 0 24).marker.toNat ∧ (bitsOf 0 24).marker.toNat ≤ 0xD7)) ∧
    (let s := inp .scan [0x7F, 0xFF, 0xD0];
      s.bits.count < 24 ∧ ([(0x7F, 0)] : List (Byte × Nat)).length ≤ (24 - s.bits.count.toNat) / 8 ∧
        s.port.input = ecsBytes [(0x7F, 0)] ++ (markerBytes 0 0xD0 ++ [])) ∧
    (let s : State := { inp .scan [0x7F, 0x01] with bits := bitsOf 0 23 };
      ([(0x7F, 0)] : List (Byte × Nat)).length = (24 - s.bits.count.toNat) / 8 + 1 ∧
        s.port.input = ecsBytes [(0x7F, 0)] ++ [0x01]) ∧
    (let b : BitMachine := { codeBuffer := 0, codeBits := 23, noMoreBits := true, marker := 0xD9 };
      b.count < 24 ∧ ¬(0xD0 ≤ b.marker.toNat ∧ b.marker.toNat ≤ 0xD7) ∧ 0 ≤ (bitsOf 0 0).count ∧ (bitsOf 0 0).count < 24) := by
  decide +kernel

/-- RowsProducedAndAccepted: the second row of a gray frame of one column, with and without a host that accepts; a pending row. -/
theorem witness_rows :
    (let s : State := { blockState false 0 0 0 with
        phase := .output, pos := { State.reset.pos with oj := 1 }, cc := 0x40
        frame := { State.reset.frame with imgN := 1, imgX := 1, imgY := 2 }
        comp := Vector.replicate 4 { Comp.empty with w2 := 8, h2 := 8, plane := [(8, 0x55)] }
        rs := Vector.replicate 4 { Resampler.empty with hs := 1, vs := 1, wLores := 1, line0 := 1, line1 := 1, kern := 0x30 } };
      s.OwnTurn ∧ s.cancels = false ∧ s.rowPending = none ∧ s.pos.oj ≠ 0 ∧ s.frame.imgN = 1 ∧ (s.rs.get 0).kern = 0x30 ∧
        s.cc = 0x40 ∧ (s.rs.get 0).wLores = s.frame.imgX ∧ ([0x55] : List Byte).length = s.frame.imgX.toNat ∧
        s.sample 0 (s.rs.get 0).near 0 = some 0x55) ∧
    ({ inp .output [] with rowPending := some (0, [0x80]) } : State).rowPending = some (0, [0x80]) := by decide +kernel

/-- A frame of two columns and two rows in OUTPUT before its first row: three components, the second and third subsampled. -/
def outputState : State :=
  let s := blockState false 0 0 0
  { s with
    phase := .output
    frame := { s.frame with imgN := 3, imgX := 2, imgY := 2, hMax := 2, vMax := 2 }
    comp := Vector.ofFn (fun k : Fin 4 =>
      let f : BitVec 3 := if k = 0 then 2 else 1
      { Comp.empty with h := f, v := f, x := f.zeroExtend 17, y := f.zeroExtend 17, w2 := 16, h2 := 16
                        plane := [(0, 100), (1, 100), (16, 100), (17, 100)] }) }

/-- RowsProducedAndAccepted: the first row of a frame of three components: every sample it needs is written. -/
theorem witness_first_row : outputState.OwnTurn ∧ outputState.phase = .output ∧ outputState.cancels = false ∧
    outputState.rowPending = none ∧ outputState.frame.imgN.toNat ≤ 4 ∧ outputState.pos.oj = 0 ∧
    (∀ k : Fin 4, (outputState.sample k 0 0).isSome = true ∧ (outputState.sample k 0 1).isSome = true) := by decide +kernel

/-- R350, R351, R372: the kernels, the widths and the conversion that the first row fixes; R352: where the records stand after it. -/
theorem test_first_row : holds (step outputState) (fun t =>
    (t.rs.get 0).kern = 0x30 ∧ (t.rs.get 0).line1 = 1 ∧ (t.rs.get 1).kern = 0x33 ∧ (t.rs.get 1).ystep = 0 ∧
      (t.rs.get 1).wLores = 1 ∧ t.cc = 0x42 ∧ t.flags.isRgb = false ∧ t.rowPending.isSome = true) := by decide +kernel

/-- ScanSteps: a finished scan with a latched marker, and with a marker to seek; a block of an AC first scan inside an EOB run. -/
theorem witness_scan :
    (let s : State := { inp .scan [] with bits := { bitsOf 0 0 with marker := 0xD0 } };
      s.OwnTurn ∧ s.cancels = false ∧ s.scanDone = true ∧ s.bits.marker ≠ 0xFF) ∧
    (let s := inp .scan [0x12, 0xFF, 0x00, 0xFF, 0xD9];
      s.OwnTurn ∧ s.cancels = false ∧ s.scanDone = true ∧ s.bits.marker = 0xFF ∧
        s.port.input = ecsBytes [(0x12, 0), (0xFF, 0)] ++ (markerBytes 0 0xD9 ++ [])) ∧
    (let s : State :=
        let b := bandState 0 0 1 5 [];
        { b with scan := { b.scan with eobRun := 3 } };
      s.OwnTurn ∧ s.phase = .scan ∧ s.cancels = false ∧ s.scanDone = false ∧ s.frame.progressive = true ∧ s.scan.scanN = 1 ∧
        s.scan.specStart ≠ 0 ∧ s.scan.succHigh = 0 ∧ s.scan.eobRun ≠ 0 ∧ 0 < (s.todo - 1).toInt) := by decide +kernel

/-- ScanSteps: a baseline block that its decoder ends in SCAN, in its plane, where no restart is due. -/
theorem witness_baseline_mcu :
    let s := blockState false 2 0 0x30000000
    (s.OwnTurn ∧ s.phase = .scan ∧ s.cancels = false ∧ s.scanDone = false ∧ s.frame.progressive = false ∧ s.scan.scanN = 1 ∧
      0 < (s.todo - 1).toInt) ∧ (∀ y x : Fin 8, s.inPlane s.blockComp (8 * s.blockRow + y) (8 * s.blockCol + x) = true) ∧
    holds (exec .blkBaseline s.unheld) (fun b => b.phase = .scan ∧ b.ctl.stallIn = false) := by decide +kernel

/-- An interleaved progressive DC scan of a component of 2 x 1 blocks and one of 1 x 1, at its first MCU, with a restart due. -/
def interleavedState : State :=
  let s := blockState true 2 0 0x30C30C00
  { s with
    frame := { s.frame with imgN := 3, imgX := 32, mcuX := 2 }
    comp := s.comp.set 0 { s.comp.get 0 with h := 2, coeffW := 4, w2 := 32 }
    scan := { s.scan with scanN := 2, order := Vector.ofFn (fun j : Fin 4 => BitVec.ofNat 2 j.val) }
    todo := 1, restartInterval := 1
    port := { s.port with input := [0xFF, 0xD3] } }

/-- ScanSteps: the three blocks of an interleaved MCU in their order, each ended by its decoder in SCAN; the due restart after it is
taken; the MCU position moves on (R273, R313). -/
theorem witness_interleaved :
    (interleavedState.OwnTurn ∧ interleavedState.scanDone = false ∧ interleavedState.scan.scanN.toNat = 2) ∧
    interleavedState.mcuPositions = [(0, 0, 0), (0, 0, 1), (1, 0, 0)] ∧
    holds (exec interleavedState.scanInstr interleavedState.unheld) (fun m => m.phase = .scan ∧ m.ctl.stallIn = false) ∧
    holds (step interleavedState) (fun t => t.phase = .scan ∧ t.ctl.stallIn = false ∧ t.todo = 1 ∧ t.pos.mcuI = 1 ∧
      t.bits.codeBits = 0 ∧ t.port.input = []) := by decide +kernel

end Sys2Proof.Machine
end

/-! PROOFS of the statements about the state (10_state.md): `Safe` says of a piece of a rule that it keeps the invariant and writes no
error record, wherever it stops; it is proved once per piece, in the shape of the piece, and the outcomes of a step follow from it. -/

namespace Sys2Proof.Machine

/-! ### The accumulator -/

/-- A byte appended where there is room leaves zeros below the valid bits (R180, R190). -/
theorem BitMachine.Ok.append {m : BitMachine} (h : m.Ok) (hc : m.count ≤ 24) (b : Byte) : (m.append b).Ok := by
  obtain ⟨h0, -, hz⟩ := h
  have hcount : (m.append b).count = m.count + 8 := by
    simp only [BitMachine.append, BitMachine.count, BitVec.toInt_eq_toNat_cond, BitVec.toNat_add, BitVec.reduceToNat] at *
    omega
  obtain ⟨k, hk⟩ : ∃ k : Nat, m.count = 24 - (k : Int) ∧ k ≤ 24 := ⟨(24 - m.count).toNat, by omega⟩
  have hused : 32 - m.count.toNat = k + 8 := by omega
  have hleft : 32 - (m.append b).count.toNat = k := by omega
  have hshift : (24 - m.count).toNat = k := by omega
  rw [hused, ← Nat.dvd_iff_mod_eq_zero] at hz
  refine ⟨by omega, by omega, ?_⟩
  rw [hleft]
  simp only [BitMachine.append, hshift, BitVec.toNat_or, BitVec.toNat_shiftLeft, Nat.shiftLeft_eq, Nat.or_mod_two_pow]
  have hb : 2 ^ k ∣ (b.zeroExtend 32).toNat * 2 ^ k % 2 ^ 32 :=
    (Nat.dvd_mod_iff (Nat.pow_dvd_pow 2 (by omega))).2 (Nat.dvd_mul_left _ _)
  have hm : 2 ^ k ∣ m.codeBuffer.toNat := dvd_trans (Nat.pow_dvd_pow 2 (by omega)) hz
  rw [Nat.mod_eq_zero_of_dvd hb, Nat.mod_eq_zero_of_dvd hm]
  rfl

/-- Consuming bits that are there leaves zeros below the valid bits (R181, R190). -/
theorem BitMachine.Ok.consume {m : BitMachine} {n : Nat} (h : m.Ok) (hn : (n : Int) ≤ m.count) : (m.consume n).Ok := by
  obtain ⟨h0, h32, hz⟩ := h
  have hcount : (m.consume n).count = m.count - n := by
    simp only [BitMachine.consume, BitMachine.count, BitVec.toInt_eq_toNat_cond, BitVec.toNat_sub, BitVec.toNat_ofNat] at *
    omega
  have e : 32 - (m.consume n).count.toNat = 32 - m.count.toNat + n := by omega
  refine ⟨by omega, by omega, ?_⟩
  rw [e, ← Nat.dvd_iff_mod_eq_zero]
  simp only [BitMachine.consume, BitVec.toNat_shiftLeft, Nat.shiftLeft_eq]
  refine (Nat.dvd_mod_iff (Nat.pow_dvd_pow 2 (by omega))).2 ?_
  rw [Nat.pow_add]
  exact Nat.mul_dvd_mul_right (Nat.dvd_of_mod_eq_zero hz) _

/-! ### What a piece of a rule can do -/

/-- What the invariants speak of. -/
def State.watched (s : State) : BitMachine × Vector Comp 4 × BitVec 8 × BitVec 3 × Phase :=
  (s.bits, s.comp, s.errCode, s.errClass, s.phase)

/-- What every piece of a rule does from `s` to the state `t` it reaches, before any error is taken: it keeps the invariant, writes no
error record, and does not enter ERROR (R22, R410). -/
structure State.Evolves (s t : State) : Prop where
  inv : s.Inv → t.Inv
  errCode : t.errCode = s.errCode
  errClass : t.errClass = s.errClass
  phase : t.phase = .error → s.phase = .error

namespace State.Evolves

variable {s t u : State}

theorem refl (s : State) : s.Evolves s := ⟨id, rfl, rfl, id⟩

theorem trans (h : s.Evolves t) (h' : t.Evolves u) : s.Evolves u :=
  ⟨h'.inv ∘ h.inv, h'.errCode.trans h.errCode, h'.errClass.trans h.errClass, h.phase ∘ h'.phase⟩

/-- Entering a phase other than ERROR, with any update of what the invariants do not speak of. -/
theorem of_setPhase {p : Phase} (h : t.watched = (s.setPhase p).watched) (hp : p ≠ .error) : s.Evolves t := by
  simp only [watched, Prod.mk.injEq, setPhase_bits, setPhase_comp, setPhase_errCode, setPhase_errClass, setPhase_phase] at h
  obtain ⟨hbits, hcomp, hcode, hclass, hphase⟩ := h
  refine ⟨fun hi => ?_, hcode, hclass, fun he => absurd (hphase.symm.trans he) hp⟩
  unfold Inv PlanesOk
  rwa [hbits, hcomp]

/-- An update of what the invariants do not speak of. -/
theorem of_watched (h : t.watched = s.watched) : s.Evolves t := by
  simp only [watched, Prod.mk.injEq] at h
  obtain ⟨hbits, hcomp, hcode, hclass, hphase⟩ := h
  refine ⟨fun hi => ?_, hcode, hclass, fun he => hphase.symm.trans he⟩
  unfold Inv PlanesOk
  rwa [hbits, hcomp]

theorem of_setBits {b : BitMachine} (hok : s.bits.Ok → b.Ok) (hm : s.bits.marker ≠ 0 → b.marker ≠ 0) :
    s.Evolves (s.setBits b) :=
  ⟨fun ⟨hb, hmarker, hplanes⟩ => ⟨hok hb, hm hmarker, hplanes⟩, rfl, rfl, id⟩

/-- A component record replaced by one whose planes are canonical if the old ones are. -/
theorem of_setComp {c : Fin 4} {r : Comp} (hp : Mem.wf (s.comp.get c).plane = true → Mem.wf r.plane = true)
    (hc : Mem.wf (s.comp.get c).coef = true → Mem.wf r.coef = true) : s.Evolves (s.setComp c r) := by
  refine ⟨fun ⟨hb, hmarker, hplanes⟩ => ⟨hb, hmarker, fun d => ?_⟩, rfl, rfl, id⟩
  rw [setComp_comp, comp_set_get]
  split
  · exact ⟨hp (hplanes c).1, hc (hplanes c).2⟩
  · exact hplanes d

end State.Evolves

theorem State.evolves_resetEntropy (s : State) : s.Evolves s.resetEntropy := by
  have hcleared : BitMachine.cleared.Ok ∧ BitMachine.cleared.marker ≠ 0 := by decide
  refine ⟨fun ⟨_, _, hplanes⟩ => ⟨hcleared.1, hcleared.2, fun c => ?_⟩, rfl, rfl, id⟩
  simpa [Vector.get_eq_getElem] using hplanes c

theorem State.evolves_allocate (s : State) : s.Evolves s.allocate := by
  refine ⟨fun ⟨hb, hmarker, _⟩ => ⟨hb, hmarker, fun c => ?_⟩, rfl, rfl, id⟩
  simp [State.allocate, Vector.get_eq_getElem, Mem.wf]

/-! ### Safe pieces

The proof that a rule is safe has the shape of the rule: `safe_bind` for each of its lines, `safe_ite` for its branches, recursion for
its loops. Only where a line's safety rests on a test before it (room for a byte, bits to consume, a code that is not 0x00) is the
test carried along, in a triple of its own. -/

/-- A piece that evolves the state wherever it begins, whether it runs to its end or stops. -/
def Safe {α : Type} (m : Seq α) : Prop := ∀ s : State, Triple s.Evolves m (fun _ => s.Evolves) (fun _ => s.Evolves)

section
variable {α β : Type} {m : Seq α}

theorem safe_of_evolves (h : ∀ s : State, Triple (· = s) m (fun _ => s.Evolves) (fun _ => s.Evolves)) : Safe m :=
  fun _ u hu => triple_conseq (h u) (fun _ _ => hu.trans) (fun _ _ => hu.trans) u rfl

theorem safe_pure (a : α) : Safe (pure a) := fun _ => triple_pure fun _ h => h
theorem safe_look (f : State → α) : Safe (look f) := fun _ => triple_look fun _ h => h
theorem safe_get : Safe (get : Seq State) := fun _ => triple_get fun _ h => h
theorem safe_raise (e : ErrCode) : Safe (raise e : Seq α) := fun _ => triple_raise fun _ h => h
theorem safe_modelFault (f : Fault) : Safe (modelFault f : Seq α) := fun _ => triple_modelFault fun _ h => h
theorem safe_check (c : Bool) (e : ErrCode) : Safe (check c e) := fun _ => triple_check (fun _ _ h => h) (fun _ _ h => h)

theorem safe_upd {f : State → State} (h : ∀ s : State, s.Evolves (f s)) : Safe (upd f) :=
  fun _ => triple_upd fun u hu => hu.trans (h u)

/-- An update of what the invariants do not speak of. -/
theorem safe_upd_rest {f : State → State} (h : ∀ s, (f s).watched = s.watched) : Safe (upd f) :=
  safe_upd fun s => .of_watched (h s)

theorem safe_bind {f : α → Seq β} (hm : Safe m) (hf : ∀ a, Safe (f a)) : Safe (m >>= f) :=
  fun s => triple_bind (hm s) fun a => hf a s

theorem safe_ite_of {c : Prop} [Decidable c] {n : Seq α} (hm : c → Safe m) (hn : ¬c → Safe n) :
    Safe (if c then m else n) :=
  fun s => triple_ite (fun h => hm h s) (fun h => hn h s)

theorem safe_ite {c : Prop} [Decidable c] {n : Seq α} (hm : Safe m) (hn : Safe n) : Safe (if c then m else n) :=
  safe_ite_of (fun _ => hm) (fun _ => hn)

theorem safe_onlyIf {n : Seq Unit} (c : Bool) (hn : Safe n) : Safe (onlyIf c n) :=
  fun s => triple_onlyIf (fun _ _ h => h) (fun _ => hn s)

theorem safe_forEach (xs : List α) {f : α → Seq Unit} (h : ∀ x, Safe (f x)) : Safe (forEach xs f) :=
  fun s => triple_forEach fun x _ => h x s

end

/-! ### The input port -/

/-- Reading a byte keeps whatever does not speak of the bytes supplied and of `byte_pos` (R71). -/
theorem triple_readU8 {P : State → Prop} (h : ∀ s p n, P s → P { s with port := p, bytePos := n }) :
    Triple P readU8 (fun _ => P) (fun _ => P) := by
  intro s hs
  cases hi : s.port.input with
  | nil => rw [readU8_nil hi]; exact hs
  | cons b rest => rw [readU8_cons hi]; exact h _ _ _ hs

theorem triple_readPastFF {P : State → Prop} (h : ∀ s p n, P s → P { s with port := p, bytePos := n }) (k : Nat) :
    Triple P (readPastFF k) (fun _ => P) (fun _ => P) := by
  induction k with
  | zero => exact triple_readU8 h
  | succ k ih => exact triple_bind (triple_readU8 h) fun c => triple_ite (fun _ => ih) (fun _ => triple_pure fun _ hs => hs)

theorem State.Evolves.readByte {s u : State} (h : s.Evolves u) (p : Port) (n : BitVec 32) :
    s.Evolves { u with port := p, bytePos := n } :=
  h.trans (.of_watched rfl)

theorem safe_readU8 : Safe readU8 := fun _ => triple_readU8 fun _ p n h => h.readByte p n
theorem safe_readPastFF (k : Nat) : Safe (readPastFF k) := fun _ => triple_readPastFF (fun _ p n h => h.readByte p n) k
theorem safe_readU16 : Safe readU16 := safe_bind safe_readU8 fun _ => safe_bind safe_readU8 fun _ => safe_pure _
theorem safe_supplied : Safe supplied := safe_look _

theorem safe_skip : (n : Nat) → Safe (skip n)
  | 0 => safe_pure _
  | n + 1 => safe_bind safe_readU8 fun _ => safe_skip n

theorem safe_readBytes : (n : Nat) → Safe (readBytes n)
  | 0 => safe_pure _
  | n + 1 => safe_bind safe_readU8 fun _ => safe_bind (safe_readBytes n) fun _ => safe_pure _

/-! ### The planes and the tables -/

theorem safe_planeWrite (c : Fin 4) (y x : Nat) (v : Byte) : Safe (planeWrite c y x v) := by
  refine safe_of_evolves ?_
  rintro _ s rfl
  rcases planeWrite_cases c y x v s with ⟨-, e⟩ | ⟨-, e⟩ <;> rw [e]
  · exact .of_setComp (Mem.wf_write _ _) id
  · exact .refl s

theorem safe_coefWrite (c : Fin 4) (b i : Nat) (v : BitVec 16) : Safe (coefWrite c b i v) := by
  refine safe_of_evolves ?_
  rintro _ s rfl
  rcases coefWrite_cases c b i v s with ⟨-, e⟩ | ⟨-, e⟩ <;> rw [e]
  · exact .of_setComp id (Mem.wf_write _ _)
  · exact .refl s

theorem safe_planeRead (c : Fin 4) (y x : Nat) : Safe (planeRead c y x) := by
  refine safe_of_evolves ?_
  rintro _ s rfl
  rcases planeRead_cases c y x s with ⟨v, -, -, e⟩ | ⟨f, e⟩ <;> rw [e] <;> exact .refl s

theorem safe_coefRead (c : Fin 4) (b i : Nat) : Safe (coefRead c b i) := by
  refine safe_of_evolves ?_
  rintro _ s rfl
  rcases coefRead_cases c b i s with ⟨v, -, -, e⟩ | ⟨f, e⟩ <;> rw [e] <;> exact .refl s

theorem safe_loadedHuff (tc : Fin 2) (th : Fin 4) : Safe (loadedHuff tc th) := by
  refine safe_of_evolves ?_
  rintro _ s rfl
  rcases loadedHuff_cases tc th s with ⟨-, e⟩ | ⟨-, e⟩ <;> rw [e] <;> exact .refl s

theorem safe_loadedQt (q : Fin 4) : Safe (loadedQt q) := by
  refine safe_of_evolves ?_
  rintro _ s rfl
  rcases loadedQt_cases q s with ⟨-, e⟩ | ⟨-, e⟩ <;> rw [e] <;> exact .refl s

theorem safe_loadedFastAc (th : Fin 4) (c : Nat) : Safe (loadedFastAc th c) := by
  refine safe_of_evolves ?_
  rintro _ s rfl
  unfold loadedFastAc
  cases (s.huffAt 1 th).loaded <;> exact .refl s

/-! ### The bit machine -/

theorem State.evolves_append {s : State} (h : s.bits.count ≤ 24) (b : Byte) : s.Evolves (s.setBits (s.bits.append b)) :=
  .of_setBits (fun hb => hb.append h b) id

theorem State.evolves_consume {s : State} {n : Nat} (h : (n : Int) ≤ s.bits.count) :
    s.Evolves (s.setBits (s.bits.consume n)) :=
  .of_setBits (fun hb => hb.consume h) id

theorem State.evolves_latch (s : State) {c : Byte} (h : c ≠ 0) : s.Evolves (s.setBits (s.bits.latch c)) :=
  .of_setBits id fun _ => h

theorem State.evolves_setMarker (s : State) {c : Byte} (h : c ≠ 0) : s.Evolves (s.setBits { s.bits with marker := c }) :=
  .of_setBits id fun _ => h

theorem safe_latchMarker {c : Byte} (h : c ≠ 0) : Safe (latchMarker c) := safe_upd fun s => s.evolves_latch h

/-- The state a round of FillBits runs in: reached from `s`, with room for a byte (R180). -/
def State.Room (s u : State) : Prop := s.Evolves u ∧ u.bits.count ≤ 24

theorem State.Room.readByte {s u : State} (h : s.Room u) (p : Port) (n : BitVec 32) :
    s.Room { u with port := p, bytePos := n } := ⟨h.1.readByte p n, h.2⟩

theorem triple_appendByte (s : State) (b : Byte) :
    Triple s.Room (appendByte b) (fun _ => s.Evolves) (fun _ => s.Evolves) :=
  triple_upd fun _ hu => hu.1.trans (State.evolves_append hu.2 b)

theorem triple_afterFF (s : State) : Triple s.Room afterFF (fun _ => s.Evolves) (fun _ => s.Evolves) := by
  have hread (n : Nat) : Triple s.Room (readPastFF n) (fun _ => s.Room) (fun _ => s.Evolves) :=
    triple_conseq (triple_readPastFF (fun _ p n h => h.readByte p n) n) (fun _ _ h => h) (fun _ _ h => h.1)
  refine triple_bind (triple_look fun _ h => h) fun n => triple_bind (hread n) fun c => triple_ite (fun _ => ?_) (fun hc => ?_)
  · exact triple_bind (triple_appendByte s _) fun _ => safe_pure _ s
  · exact triple_weaken (fun _ h => h.1) (safe_bind (safe_latchMarker hc) (fun _ => safe_pure _) s)

theorem triple_fillRound (s : State) : Triple s.Room fillRound (fun _ => s.Evolves) (fun _ => s.Evolves) := by
  have happend (b : Byte) : Triple s.Room (do appendByte b; pure true) (fun _ => s.Evolves) (fun _ => s.Evolves) :=
    triple_bind (triple_appendByte s b) fun _ => safe_pure _ s
  have hread : Triple s.Room readU8 (fun _ => s.Room) (fun _ => s.Evolves) :=
    triple_conseq (triple_readU8 fun _ p n h => h.readByte p n) (fun _ _ h => h) (fun _ _ h => h.1)
  refine triple_bind (triple_look fun _ h => h) fun stopped => triple_ite (fun _ => happend 0) (fun _ => ?_)
  exact triple_bind hread fun b => triple_ite (fun _ => triple_afterFF s) (fun _ => happend b)

theorem triple_fillLoop (s : State) (n : Nat) : Triple s.Room (fillLoop n) (fun _ => s.Evolves) (fun _ => s.Evolves) := by
  induction n with
  | zero => exact triple_pure fun _ h => h.1
  | succ n ih =>
    refine triple_bind (triple_fillRound s) fun more => triple_bind
      (Q := fun again u => s.Evolves u ∧ (again = true → u.bits.count ≤ 24)) (triple_look fun _ h => ⟨h, of_decide_eq_true⟩) fun again => ?_
    refine triple_ite (fun hgo => ?_) (fun _ => triple_pure fun _ h => h.1)
    rw [Bool.and_eq_true] at hgo
    exact triple_weaken (fun _ h => ⟨h.1, h.2 hgo.2⟩) ih

/-- The precondition of FillBits makes room (R180, R403). -/
theorem triple_ifRoom {s : State} {m : Seq Unit} (hm : Triple s.Room m (fun _ => s.Evolves) (fun _ => s.Evolves)) :
    Triple s.Evolves
      (do let full ← look (fun u => decide (24 < u.bits.count)); if full then modelFault .fillPrecondition else m)
      (fun _ => s.Evolves) (fun _ => s.Evolves) := by
  refine triple_bind (Q := fun full u => s.Evolves u ∧ (full = false → u.bits.count ≤ 24))
    (triple_look fun u h => ⟨h, fun hf => Int.not_lt.1 (of_decide_eq_false hf)⟩) fun full => ?_
  refine triple_ite (fun _ => triple_modelFault fun _ h => h.1) (fun hroom => ?_)
  exact triple_weaken (fun _ h => ⟨h.1, h.2 (eq_false_of_ne_true hroom)⟩) hm

theorem safe_fillBits : Safe fillBits := fun s => triple_ifRoom (triple_fillLoop s 20)

theorem safe_fillBelow (n : Nat) : Safe (fillBelow n) := safe_bind (safe_look _) fun _ => safe_onlyIf _ safe_fillBits


/-- The state a rule consumes `n` bits in: reached from `s`, with `n` bits there (R181). -/
def State.Holding (s : State) (n : Nat) (u : State) : Prop := s.Evolves u ∧ (n : Int) ≤ u.bits.count

theorem triple_consume (s : State) (n : Nat) : Triple (s.Holding n) (consume n) (fun _ => s.Evolves) (fun _ => s.Evolves) :=
  triple_upd fun _ hu => hu.1.trans (State.evolves_consume hu.2)

/-- The test that a rule makes before it consumes `n` bits (R183, R185 to R188). -/
theorem triple_lookShort (s : State) (n : Nat) :
    Triple s.Evolves (look fun u => decide (u.bits.count < (n : Int)))
      (fun short u => s.Evolves u ∧ (short = false → (n : Int) ≤ u.bits.count)) (fun _ => s.Evolves) :=
  triple_look fun _ hu => ⟨hu, fun hs => Int.not_lt.1 (of_decide_eq_false hs)⟩

theorem safe_takeCode (n : Nat) : Safe (takeCode n) := by
  intro s
  refine triple_bind (triple_lookShort s n) fun short => triple_bind (Q := fun _ => s.Holding n) ?_ fun _ => triple_consume s n
  exact triple_check (fun hs _ h => ⟨h.1, h.2 hs⟩) (fun _ _ h => h.1)

theorem safe_decodeSlow (T : HuffTable) : Safe (decodeSlow T) := by
  refine safe_bind (safe_look _) fun temp => safe_bind (safe_check _ _) fun _ s => ?_
  generalize slowLength T temp _ = k
  refine triple_bind (triple_lookShort s k) fun short => triple_bind (Q := fun _ => s.Holding k) ?_ fun _ => ?_
  · exact triple_check (fun hs _ h => ⟨h.1, h.2 hs⟩) (fun _ _ h => h.1)
  · refine triple_bind (Q := fun _ => s.Holding k) (triple_look fun _ h => h) fun i =>
      triple_bind (Q := fun _ => s.Holding k) ?_ fun _ => ?_
    · exact triple_check (fun _ _ h => h) (fun _ _ h => h.1)
    · exact triple_bind (triple_consume s k) fun _ => safe_pure _ s

theorem safe_decodeFast (T : HuffTable) (i : Nat) : Safe (decodeFast T i) :=
  safe_bind (safe_takeCode _) fun _ => safe_pure _

theorem safe_decodeHuffman (tc : Fin 2) (th : Fin 4) : Safe (decodeHuffman tc th) :=
  safe_bind (safe_fillBelow _) fun _ => safe_bind (safe_loadedHuff _ _) fun _ => safe_bind (safe_look _) fun _ =>
    safe_ite (safe_decodeFast _ _) (safe_decodeSlow _)

theorem safe_rawBits {α : Type} (n : Nat) (f : Nat → α) (d : α) : Safe (rawBits n f d) := by
  refine safe_bind (safe_fillBelow n) fun _ s => triple_bind (triple_lookShort s n) fun few => triple_ite (fun _ => ?_) (fun hf => ?_)
  · exact triple_pure fun _ h => h.1
  · refine triple_bind (Q := fun _ => s.Holding n) (triple_look fun _ h => ⟨h.1, h.2 (eq_false_of_ne_true hf)⟩) fun v => ?_
    exact triple_bind (triple_consume s n) fun _ => safe_pure _ s

theorem safe_getBits (n : Nat) : Safe (getBits n) := safe_rawBits _ _ _
theorem safe_getBit : Safe getBit := safe_rawBits _ _ _
theorem safe_receiveExtend (n : Nat) : Safe (receiveExtend n) := safe_rawBits _ _ _
theorem safe_peekFastAc (th : Fin 4) : Safe (peekFastAc th) := safe_bind (safe_look _) fun _ => safe_loadedFastAc _ _

/-! ### Table builds, marker reading and the table segments -/

theorem safe_hufBuild (tc : Fin 2) (th : Fin 4) (counts : Vector Byte 16) : Safe (hufBuild tc th counts) :=
  safe_bind (safe_look _) fun _ => safe_ite (safe_modelFault _) <|
    safe_bind (safe_upd_rest fun _ => rfl) fun _ => safe_bind (safe_check _ _) fun _ => safe_upd_rest fun _ => rfl

theorem safe_fastacBuild (th : Fin 4) : Safe (fastacBuild th) :=
  safe_bind (safe_loadedHuff _ _) fun _ => safe_upd_rest fun _ => rfl

theorem safe_noteMarker (x : Byte) : Safe (noteMarker x) := safe_bind (safe_upd_rest fun _ => rfl) fun _ => safe_pure _

theorem safe_getMarker : Safe getMarker :=
  safe_bind (safe_look _) fun _ => safe_ite
    (safe_bind (safe_upd fun s => s.evolves_setMarker (by decide)) fun _ => safe_noteMarker _)
    (safe_bind safe_readU8 fun _ => safe_ite (safe_pure _) <|
      safe_bind safe_supplied fun _ => safe_bind (safe_readPastFF _) fun _ => safe_noteMarker _)

theorem safe_seekLoop : (n : Nat) → Safe (seekLoop n)
  | 0 => safe_bind safe_readU8 fun _ => safe_pure _
  | n + 1 => safe_bind safe_readU8 fun _ => safe_ite (safe_seekLoop n) <|
      safe_bind safe_supplied fun _ => safe_bind (safe_readPastFF _) fun _ =>
        safe_ite_of (fun hc => safe_upd fun s => s.evolves_setMarker hc) (fun _ => safe_seekLoop n)

theorem safe_seekMarker : Safe seekMarker := safe_bind safe_supplied fun _ => safe_seekLoop _

theorem safe_dqtEntry (p : Nat) : Safe (dqtEntry p) :=
  safe_ite safe_readU16 (safe_bind safe_readU8 fun _ => safe_pure _)

theorem safe_dqtEntries (p : Nat) (t : Fin 4) : (ks : List Nat) → Safe (dqtEntries p t ks)
  | [] => safe_pure _
  | _ :: ks => safe_bind (safe_dqtEntry p) fun _ => safe_bind (safe_upd_rest fun _ => rfl) fun _ => safe_dqtEntries p t ks

theorem safe_dqtTable : Safe dqtTable :=
  safe_bind safe_readU8 fun _ => safe_bind (safe_check _ _) fun _ => safe_bind (safe_check _ _) fun _ =>
    safe_bind (safe_dqtEntries _ _ _) fun _ => safe_bind (safe_upd_rest fun _ => rfl) fun _ => safe_pure _

theorem safe_dqtLoop : (n : Nat) → (L : Int) → Safe (dqtLoop n L)
  | 0, _ => safe_pure _
  | n + 1, _ => safe_ite (safe_bind safe_dqtTable fun _ => safe_dqtLoop n _) (safe_pure _)

theorem safe_segDqt : Safe segDqt :=
  safe_bind safe_readU16 fun _ => safe_bind (safe_dqtLoop _ _) fun _ => safe_check _ _

theorem safe_dhtValues (tc : Fin 2) (th : Fin 4) : (i n : Nat) → Safe (dhtValues tc th i n)
  | _, 0 => safe_pure _
  | _, n + 1 => safe_bind safe_readU8 fun _ => safe_bind (safe_upd_rest fun _ => rfl) fun _ => safe_dhtValues tc th _ n

theorem safe_dhtTable : Safe dhtTable := by
  refine safe_bind safe_readU8 fun q => safe_bind (safe_check _ _) fun _ => safe_bind (safe_readBytes 16) fun l => ?_
  generalize countsOf l = counts
  exact safe_bind (safe_check _ _) fun _ => safe_bind (safe_upd_rest fun _ => rfl) fun _ =>
    safe_bind (safe_dhtValues _ _ _ _) fun _ => safe_bind (safe_hufBuild _ _ counts) fun _ =>
      safe_bind (safe_onlyIf _ (safe_fastacBuild _)) fun _ => safe_pure _

theorem safe_dhtLoop : (n : Nat) → (L : Int) → Safe (dhtLoop n L)
  | 0, _ => safe_pure _
  | n + 1, _ => safe_ite (safe_bind safe_dhtTable fun _ => safe_dhtLoop n _) (safe_pure _)

theorem safe_segDht : Safe segDht :=
  safe_bind safe_readU16 fun _ => safe_bind (safe_dhtLoop _ _) fun _ => safe_check _ _

theorem safe_segDri : Safe segDri :=
  safe_bind safe_readU16 fun _ => safe_bind (safe_check _ _) fun _ => safe_bind safe_readU16 fun _ => safe_upd_rest fun _ => rfl

theorem safe_jfifCheck (L : Nat) : Safe (jfifCheck L) :=
  safe_bind (safe_readBytes _) fun _ => safe_bind (safe_onlyIf _ (safe_upd_rest fun _ => rfl)) fun _ => safe_pure _

theorem safe_adobeFields : Safe adobeFields :=
  safe_bind safe_readU8 fun _ => safe_bind safe_readU16 fun _ => safe_bind safe_readU16 fun _ =>
    safe_bind safe_readU8 fun _ => safe_upd_rest fun _ => rfl

theorem safe_adobeCheck (L : Nat) : Safe (adobeCheck L) :=
  safe_bind (safe_readBytes _) fun _ => safe_ite (safe_bind safe_adobeFields fun _ => safe_pure _) (safe_pure _)

theorem safe_recogniseNone (L : Nat) : Safe (recogniseNone L) := safe_pure _
theorem safe_recogniseJfif (L : Nat) : Safe (recogniseJfif L) := safe_ite (safe_jfifCheck _) (safe_pure _)
theorem safe_recogniseAdobe (L : Nat) : Safe (recogniseAdobe L) := safe_ite (safe_adobeCheck _) (safe_pure _)

theorem safe_segApp {recognise : Nat → Seq Nat} (h : ∀ L, Safe (recognise L)) : Safe (segApp recognise) :=
  safe_bind safe_readU16 fun _ => safe_bind (safe_check _ _) fun _ => safe_bind (h _) fun _ => safe_skip _

theorem safe_segDnl : Safe segDnl :=
  safe_bind safe_readU16 fun _ => safe_bind safe_readU16 fun _ => safe_bind (safe_check _ _) fun _ =>
    safe_bind (safe_look _) fun _ => safe_check _ _

theorem safe_restartCheck (last : Bool) : Safe (restartCheck last) :=
  safe_bind (safe_upd_rest fun _ => rfl) fun _ => safe_bind (safe_look _) fun _ => safe_ite
    (safe_bind (safe_fillBelow _) fun _ => safe_bind (safe_look _) fun _ => safe_bind (safe_check _ _) fun _ =>
      safe_upd State.evolves_resetEntropy)
    (safe_pure _)

/-! ### The frame and scan headers -/

theorem safe_updFrame (f : Frame → Frame) : Safe (updFrame f) := safe_upd_rest fun _ => rfl
theorem safe_updScan (f : Scan → Scan) : Safe (updScan f) := safe_upd_rest fun _ => rfl

/-- Updates of a component record that leave its planes alone. -/
theorem safe_updComp (i : Fin 4) {f : Comp → Comp} (h : ∀ c, (f c).plane = c.plane ∧ (f c).coef = c.coef) :
    Safe (updComp i f) :=
  safe_upd fun s => .of_setComp (by rw [(h _).1]; exact id) (by rw [(h _).2]; exact id)

theorem safe_sofFields : Safe sofFields :=
  safe_bind safe_readU16 fun _ => safe_bind (safe_check _ _) fun _ =>
    safe_bind safe_readU8 fun _ => safe_bind (safe_check _ _) fun _ =>
    safe_bind safe_readU16 fun _ => safe_bind (safe_updFrame _) fun _ => safe_bind (safe_check _ _) fun _ =>
    safe_bind safe_readU16 fun _ => safe_bind (safe_updFrame _) fun _ => safe_bind (safe_check _ _) fun _ =>
    safe_bind safe_readU8 fun _ => safe_bind (safe_check _ _) fun _ => safe_bind (safe_updFrame _) fun _ => safe_check _ _

theorem safe_sofComponent (i : Fin 4) : Safe (sofComponent i) :=
  safe_bind safe_readU8 fun _ => safe_bind (safe_updComp i fun _ => ⟨rfl, rfl⟩) fun _ => safe_bind (safe_look _) fun _ =>
    safe_bind (safe_onlyIf _ (safe_upd_rest fun _ => rfl)) fun _ =>
    safe_bind safe_readU8 fun _ => safe_bind (safe_updComp i fun _ => ⟨rfl, rfl⟩) fun _ => safe_bind (safe_check _ _) fun _ =>
    safe_bind (safe_updComp i fun _ => ⟨rfl, rfl⟩) fun _ => safe_bind (safe_check _ _) fun _ =>
    safe_bind safe_readU8 fun _ => safe_bind (safe_check _ _) fun _ => safe_updComp i fun _ => ⟨rfl, rfl⟩

theorem safe_sofComponents : Safe sofComponents :=
  safe_bind (safe_upd_rest fun _ => rfl) fun _ => safe_bind (safe_look _) fun _ => safe_forEach _ safe_sofComponent

theorem safe_sofSizeCheck : Safe sofSizeCheck := safe_bind (safe_look _) fun _ => safe_check _ _

theorem safe_sofSampling : Safe sofSampling :=
  safe_bind (safe_look _) fun _ => safe_bind (safe_look _) fun _ => safe_bind (safe_updFrame _) fun _ =>
    safe_bind (safe_look _) fun _ => safe_check _ _

theorem safe_sofGeometry : Safe sofGeometry :=
  safe_bind (safe_updFrame _) fun _ => safe_bind (safe_look _) fun _ =>
    safe_forEach _ fun _ => safe_upd fun _ => .of_setComp id id

theorem safe_sofNeeds : (l : List (Fin 4)) → (total : Nat) → Safe (sofNeeds l total)
  | [], _ => safe_pure _
  | _ :: rest, _ => safe_bind (safe_look _) fun _ => safe_bind (safe_look _) fun _ => safe_bind (safe_check _ _) fun _ =>
      safe_sofNeeds rest _

theorem safe_sofAllocate : Safe sofAllocate :=
  safe_bind (safe_look _) fun _ => safe_bind (safe_sofNeeds _ _) fun _ => safe_bind (safe_look _) fun _ =>
    safe_bind (safe_check _ _) fun _ => safe_upd State.evolves_allocate

theorem State.evolves_completeFrame (s : State) : s.Evolves s.completeFrame :=
  .of_setPhase (p := .frame) rfl (by decide)

theorem safe_frameHeader (progressive : Bool) : Safe (frameHeader progressive) :=
  safe_bind (safe_updFrame _) fun _ => safe_bind safe_sofFields fun _ => safe_bind safe_sofComponents fun _ =>
    safe_bind safe_sofSizeCheck fun _ => safe_bind safe_sofSampling fun _ => safe_bind safe_sofGeometry fun _ =>
    safe_bind safe_sofAllocate fun _ => safe_upd State.evolves_completeFrame

theorem safe_sosCount : Safe sosCount :=
  safe_bind safe_readU16 fun _ => safe_bind safe_readU8 fun _ => safe_bind (safe_updScan _) fun _ =>
    safe_bind (safe_look _) fun _ => safe_bind (safe_check _ _) fun _ => safe_bind (safe_check _ _) fun _ => safe_pure _

theorem safe_sosBinding (j : Fin 4) : Safe (sosBinding j) := by
  refine safe_bind safe_readU8 fun _ => safe_bind safe_readU8 fun _ => safe_bind (safe_look _) fun w => ?_
  cases w with
  | none => exact safe_raise _
  | some w =>
    exact safe_bind (safe_updComp w fun _ => ⟨rfl, rfl⟩) fun _ => safe_bind (safe_check _ _) fun _ =>
      safe_bind (safe_updComp w fun _ => ⟨rfl, rfl⟩) fun _ => safe_bind (safe_check _ _) fun _ => safe_updScan _

theorem safe_sosSequential : Safe sosSequential :=
  safe_bind (safe_look _) fun _ => safe_bind (safe_check _ _) fun _ => safe_bind (safe_check _ _) fun _ =>
    safe_bind (safe_look _) fun _ => safe_bind (safe_check _ _) fun _ => safe_updScan _

theorem safe_sosParameters : Safe sosParameters :=
  safe_bind safe_readU8 fun _ => safe_bind (safe_updScan _) fun _ => safe_bind safe_readU8 fun _ =>
    safe_bind (safe_updScan _) fun _ => safe_bind safe_readU8 fun _ => safe_bind (safe_updScan _) fun _ =>
    safe_bind (safe_look _) fun _ => safe_ite (safe_bind (safe_look _) fun _ => safe_check _ _) safe_sosSequential

theorem safe_sosTables (j : Fin 4) : Safe (sosTables j) :=
  safe_bind (safe_look _) fun _ => safe_bind (safe_look _) fun _ => safe_bind (safe_check _ _) fun _ =>
    safe_bind (safe_look _) fun _ => safe_check _ _

theorem State.evolves_startScan (s : State) : s.Evolves s.startScan :=
  s.evolves_resetEntropy.trans (.of_setPhase (p := .scan) rfl (by decide))

theorem safe_startOfScan : Safe startOfScan :=
  safe_bind safe_sosCount fun _ => safe_bind (safe_forEach _ safe_sosBinding) fun _ => safe_bind safe_sosParameters fun _ =>
    safe_bind (safe_forEach _ safe_sosTables) fun _ => safe_upd State.evolves_startScan

theorem State.evolves_endOfImage (s : State) : s.Evolves s.endOfImage :=
  .of_setPhase rfl (by split <;> decide)

/-! ### The markers -/

/-- A marker by phase, from states in which its code is not latched unless it is a marker's (R45). -/
theorem triple_atMarker {P : State → Prop} {code : Byte} {header frame : Seq Unit} {s : State} (hP : ∀ u, P u → s.Evolves u)
    (hc : ∀ u, P u → u.phase = .scan → code ≠ 0) (hh : Safe header) (hf : Safe frame) :
    Triple P (atMarker code header frame) (fun _ => s.Evolves) (fun _ => s.Evolves) := by
  intro u hu
  rw [atMarker_apply]
  cases hp : u.phase with
  | header => exact hh s u (hP u hu)
  | frame => exact hf s u (hP u hu)
  | scan => exact (hP u hu).trans (u.evolves_latch (hc u hu hp))
  | soi | idle | finish | output | done | error => exact hP u hu

theorem safe_atMarker {code : Byte} {header frame : Seq Unit} (hc : code ≠ 0) (hh : Safe header) (hf : Safe frame) :
    Safe (atMarker code header frame) :=
  fun _ => triple_atMarker (fun _ hu => hu) (fun _ _ _ => hc) hh hf

theorem safe_inHeader {m : Seq Unit} (h : Safe m) : Safe (inHeader m) := safe_bind h fun _ => safe_upd_rest fun _ => rfl

theorem safe_segmentMarker {code : Byte} {m : Seq Unit} (hc : code ≠ 0) (h : Safe m) : Safe (segmentMarker code m) :=
  safe_atMarker hc (safe_inHeader h) h

theorem safe_frameMarker {code : Byte} {m : Seq Unit} (hc : code ≠ 0) (h : Safe m) : Safe (frameMarker code m) :=
  safe_atMarker hc (safe_raise _) h

theorem safe_sofMarker {code : Byte} (hc : code ≠ 0) (progressive : Bool) : Safe (sofMarker code progressive) :=
  safe_atMarker hc (safe_frameHeader _) (safe_raise _)

theorem safe_refusedMarker {code : Byte} (hc : code ≠ 0) : Safe (refusedMarker code) := safe_segmentMarker hc (safe_raise _)

theorem safe_soiMarker : Safe soiMarker :=
  safe_bind (safe_look _) fun _ => safe_ite (safe_upd fun _ => .of_setPhase rfl (by decide))
    (safe_segmentMarker (by decide) (safe_raise _))

theorem rstCode_ne_zero (m : BitVec 3) : rstCode m ≠ 0 := by
  revert m
  decide

theorem safe_rstInScan (m : BitVec 3) : Safe (rstInScan m) :=
  safe_bind (safe_look _) fun _ => safe_bind (safe_look _) fun _ =>
    safe_ite (safe_upd fun s => s.evolves_setMarker (by decide)) <|
      safe_ite (safe_upd State.evolves_resetEntropy) (safe_latchMarker (rstCode_ne_zero m))

theorem safe_rstMarker (m : BitVec 3) : Safe (rstMarker m) :=
  safe_bind (safe_look _) fun _ => safe_ite (safe_rstInScan m) (safe_segmentMarker (rstCode_ne_zero m) (safe_raise _))

/-- FF 00 is a data byte in SCAN, with room for it, and is never latched: elsewhere it is the unknown marker 0x00 (R112, R225). -/
theorem safe_stuffMarker : Safe stuffMarker := by
  intro s
  refine triple_bind (Q := fun p u => s.Evolves u ∧ u.phase = p) (triple_look fun _ h => ⟨h, rfl⟩) fun p =>
    triple_ite (fun _ => ?_) (fun hp => ?_)
  · exact triple_weaken (fun _ h => h.1) (triple_ifRoom (triple_appendByte s 0xFF))
  · exact triple_atMarker (fun _ h => h.1) (fun _ h hscan => absurd (h.2.symm.trans hscan) hp)
      (safe_inHeader (safe_raise _)) (safe_raise _)

theorem appCode_ne_zero (n : BitVec 4) : (0xE0 ||| n.zeroExtend 8 : Byte) ≠ 0 := by
  revert n
  decide

/-! ### Resampling, the inverse DCT and the colour stage -/

theorem safe_setupResampler (k : Fin 4) : Safe (setupResampler k) := safe_upd_rest fun _ => rfl

theorem safe_readRow (c : Fin 4) (y : Nat) : (x n : Nat) → Safe (readRow c y x n)
  | _, 0 => safe_pure _
  | x, n + 1 => safe_bind (safe_planeRead _ _ _) fun _ => safe_bind (safe_readRow c y (x + 1) n) fun _ => safe_pure _

theorem safe_rowStep (k : Fin 4) : Safe (rowStep k) :=
  safe_bind (safe_look _) fun _ => safe_bind (safe_readRow _ _ _ _) fun _ =>
    safe_bind (safe_ite (safe_readRow _ _ _ _) (safe_pure _)) fun _ => safe_upd_rest fun _ => rfl

theorem safe_putLine (f : UnitPort → Resampler → List Byte) : Safe (putLine f) := safe_upd_rest fun _ => rfl

theorem State.watched_setBlk (s : State) (b : BlockRegs) : (s.setBlk b).watched = s.watched := rfl

theorem safe_idct : Safe idct := safe_upd_rest fun s => s.watched_setBlk _

theorem safe_placeBlock (c : Fin 4) (gx gy : Nat) : Safe (placeBlock c gx gy) :=
  safe_bind (safe_look _) fun _ => safe_forEach _ fun _ => safe_planeWrite _ _ _ _

theorem safe_convertPixel (f : Samples → List Byte) : Safe (convertPixel f) := safe_upd_rest fun _ => rfl

/-! ### The block decoder -/

theorem safe_setK (f : Nat → Nat) : Safe (setK f) := safe_upd_rest fun _ => rfl
theorem safe_endBlock : Safe endBlock := safe_upd_rest fun _ => rfl
theorem safe_putData (z : Fin 64) (v : BitVec 16) : Safe (putData z v) := safe_upd_rest fun _ => rfl
theorem safe_setEobRun (f : BitVec 32 → BitVec 32) : Safe (setEobRun f) := safe_upd_rest fun _ => rfl
theorem safe_startBand : Safe startBand := safe_upd_rest fun _ => rfl

theorem safe_advanceRun (r : Nat) : Safe (advanceRun r) :=
  safe_bind (safe_setK _) fun _ => safe_bind (safe_look _) fun _ => safe_bind (safe_setK _) fun _ => safe_pure _

theorem safe_dcPredict (t : Nat) : Safe (dcPredict t) :=
  safe_bind (safe_ite (safe_pure _) (safe_receiveExtend _)) fun _ => safe_upd fun _ => .of_setComp id id

theorem safe_dcBaseline (t : Nat) : Safe (dcBaseline t) :=
  safe_bind (safe_dcPredict t) fun _ => safe_bind (safe_look _) fun _ => safe_bind (safe_loadedQt _) fun _ =>
    safe_bind (safe_upd_rest fun _ => rfl) fun _ => safe_bind (safe_look _) fun _ => safe_putData _ _

theorem safe_dcFirstSymbol (t : Nat) : Safe (dcFirstSymbol t) :=
  safe_bind (safe_dcPredict t) fun _ => safe_bind safe_get fun _ => safe_coefWrite _ _ _ _

theorem safe_dcCategory : Safe dcCategory :=
  safe_bind (safe_look _) fun _ => safe_bind (safe_decodeHuffman _ _) fun _ => safe_bind (safe_check _ _) fun _ => safe_pure _

theorem safe_dcRefineWith {readBit : Seq Bool} (h : Safe readBit) : Safe (dcRefineWith readBit) :=
  safe_bind safe_get fun _ => safe_bind (safe_coefRead _ _ _) fun _ => safe_bind h fun _ => safe_onlyIf _ (safe_coefWrite _ _ _ _)

theorem safe_putCoef (z : Fin 64) (v : Int) : Safe (putCoef z v) :=
  safe_bind (safe_look _) fun _ => safe_bind (safe_loadedQt _) fun _ => safe_putData _ _

theorem safe_acCoef (r c : Nat) : Safe (acCoef r c) :=
  safe_bind (safe_advanceRun _) fun _ => safe_bind (safe_receiveExtend _) fun _ => safe_putCoef _ _

theorem safe_acSkip16 : Safe acSkip16 := safe_setK _

theorem safe_acSymbol (rs : Byte) : Safe (acSymbol rs) := safe_ite (safe_ite safe_acSkip16 safe_endBlock) (safe_acCoef _ _)

theorem safe_fastAdvance (e : BitVec 16) : Safe (fastAdvance e) :=
  safe_bind (safe_setK _) fun _ => safe_bind (safe_takeCode _) fun _ => safe_advanceRun _

theorem safe_acRound : Safe acRound :=
  safe_bind (safe_fillBelow _) fun _ => safe_bind (safe_look _) fun _ => safe_bind (safe_peekFastAc _) fun _ => safe_ite
    (safe_bind (safe_fastAdvance _) fun _ => safe_putCoef _ _)
    (safe_bind (safe_decodeHuffman _ _) fun _ => safe_acSymbol _)

theorem safe_acLoop : (n : Nat) → Safe (acLoop n)
  | 0 => safe_pure _
  | n + 1 => safe_bind safe_acRound fun _ => safe_bind (safe_look _) fun _ => safe_ite (safe_pure _) (safe_acLoop n)

theorem safe_blkBaseline : Safe blkBaseline :=
  safe_bind (safe_fillBelow _) fun _ => safe_bind safe_dcCategory fun _ => safe_bind (safe_dcBaseline _) fun _ => safe_acLoop _

theorem safe_blkDcFirst : Safe blkDcFirst :=
  safe_bind safe_get fun _ => safe_bind (safe_check _ _) fun _ => safe_bind (safe_fillBelow _) fun _ =>
    safe_bind (safe_forEach _ fun _ => safe_coefWrite _ _ _ _) fun _ => safe_bind safe_dcCategory fun _ => safe_dcFirstSymbol _

theorem safe_blkDcRefine : Safe blkDcRefine :=
  safe_bind safe_get fun _ => safe_bind (safe_check _ _) fun _ => safe_bind (safe_fillBelow _) fun _ => safe_dcRefineWith safe_getBit

theorem safe_putBlockCoef (z : Fin 64) (v : Int) : Safe (putBlockCoef z v) := safe_bind safe_get fun _ => safe_coefWrite _ _ _ _

theorem safe_blockCoef (z : Fin 64) : Safe (blockCoef z) :=
  safe_bind safe_get fun _ => safe_bind (safe_coefRead _ _ _) fun _ => safe_pure _

theorem safe_acpCoef (r c : Nat) : Safe (acpCoef r c) :=
  safe_bind (safe_advanceRun _) fun _ => safe_bind (safe_receiveExtend _) fun _ => safe_bind (safe_look _) fun _ =>
    safe_putBlockCoef _ _

theorem safe_addEobBits (r : Nat) : Safe (addEobBits r) :=
  safe_ite (safe_pure _) (safe_bind (safe_getBits _) fun _ => safe_setEobRun _)

theorem safe_acpEobrun (r : Nat) : Safe (acpEobrun r) :=
  safe_bind (safe_setEobRun _) fun _ => safe_bind (safe_addEobBits _) fun _ => safe_bind (safe_setEobRun _) fun _ => safe_endBlock

theorem safe_acpSymbol (rs : Byte) : Safe (acpSymbol rs) :=
  safe_ite (safe_ite safe_acSkip16 (safe_acpEobrun _)) (safe_acpCoef _ _)

theorem safe_acpRound : Safe acpRound :=
  safe_bind (safe_fillBelow _) fun _ => safe_bind (safe_look _) fun _ => safe_bind (safe_peekFastAc _) fun _ => safe_ite
    (safe_bind (safe_fastAdvance _) fun _ => safe_bind (safe_look _) fun _ => safe_putBlockCoef _ _)
    (safe_bind (safe_decodeHuffman _ _) fun _ => safe_acpSymbol _)

theorem safe_acpLoop : (n : Nat) → Safe (acpLoop n)
  | 0 => safe_pure _
  | n + 1 => safe_bind safe_acpRound fun _ => safe_bind (safe_look _) fun _ => safe_ite (safe_pure _) (safe_acpLoop n)

theorem safe_blkAcFirst : Safe blkAcFirst :=
  safe_bind (safe_look _) fun _ => safe_ite (safe_setEobRun _) (safe_bind safe_startBand fun _ => safe_acpLoop _)

theorem safe_refineBit (z : Fin 64) : Safe (refineBit z) :=
  safe_bind safe_get fun _ => safe_bind (safe_coefRead _ _ _) fun _ => safe_bind safe_getBit fun _ =>
    safe_onlyIf _ (safe_coefWrite _ _ _ _)

theorem safe_advance (v : Int) : (n r : Nat) → Safe (advance v n r)
  | 0, _ => safe_pure _
  | n + 1, r => safe_bind (safe_look _) fun _ => safe_ite (safe_pure _) <|
      safe_bind (safe_advanceRun _) fun _ => safe_bind (safe_blockCoef _) fun _ => safe_ite
        (safe_bind (safe_refineBit _) fun _ => safe_advance v n r)
        (safe_ite (safe_putBlockCoef _ _) (safe_advance v n (r - 1)))

theorem safe_acrCoef (r : Nat) : Safe (acrCoef r) :=
  safe_bind safe_getBit fun _ => safe_bind (safe_look _) fun _ => safe_advance _ _ _

theorem safe_acrZrl : Safe acrZrl := safe_advance _ _ _

theorem safe_acrEobrun (r : Nat) : Safe (acrEobrun r) :=
  safe_bind (safe_setEobRun _) fun _ => safe_bind (safe_addEobBits _) fun _ => safe_advance _ _ _

theorem safe_acrSymbol (rs : Byte) : Safe (acrSymbol rs) :=
  safe_ite (safe_ite safe_acrZrl (safe_acrEobrun _)) (safe_ite (safe_acrCoef _) (safe_raise _))

theorem safe_acrRound : Safe acrRound :=
  safe_bind (safe_look _) fun _ => safe_bind (safe_decodeHuffman _ _) fun _ => safe_acrSymbol _

theorem safe_acrLoop : (n : Nat) → Safe (acrLoop n)
  | 0 => safe_pure _
  | n + 1 => safe_bind safe_acrRound fun _ => safe_bind (safe_look _) fun _ => safe_ite (safe_pure _) (safe_acrLoop n)

theorem safe_refineBand : (ks : List Nat) → Safe (refineBand ks)
  | [] => safe_pure _
  | _ :: ks => safe_bind (safe_blockCoef _) fun _ => safe_bind (safe_onlyIf _ (safe_refineBit _)) fun _ => safe_refineBand ks

theorem safe_blkAcRefine : Safe blkAcRefine :=
  safe_bind (safe_look _) fun _ => safe_ite
    (safe_bind (safe_setEobRun _) fun _ => safe_bind (safe_look _) fun _ => safe_refineBand _)
    (safe_bind safe_startBand fun _ => safe_acrLoop _)

theorem safe_dequantBlock (c : Fin 4) (b : Nat) (Q : Vector (BitVec 16) 64) : Safe (dequantBlock c b Q) :=
  safe_forEach _ fun _ => safe_bind (safe_coefRead _ _ _) fun _ => safe_upd_rest fun _ => rfl

theorem State.evolves_nextFinish (s : State) : s.Evolves s.nextFinish := by
  have hphase : s.nextFinish.phase = .output ∨ s.nextFinish.phase = s.phase := by
    unfold State.nextFinish
    exact ite_eq_or_eq _ _ _
  refine ⟨id, rfl, rfl, fun he => ?_⟩
  rcases hphase with h | h
  · rw [h] at he; cases he
  · rwa [h] at he

theorem safe_dequantIdct : Safe dequantIdct :=
  safe_bind safe_get fun _ => safe_bind (safe_check _ _) fun _ => safe_bind (safe_loadedQt _) fun _ =>
    safe_bind (safe_dequantBlock _ _ _) fun _ => safe_bind safe_idct fun _ => safe_bind (safe_placeBlock _ _ _) fun _ =>
    safe_upd State.evolves_nextFinish

/-! ### The sequencer's pieces -/

theorem safe_skipPadding : (n : Nat) → (m : Byte) → Safe (skipPadding n m)
  | 0, _ => safe_pure _
  | n + 1, _ => safe_ite (safe_bind safe_getMarker fun _ => safe_skipPadding n _) (safe_pure _)

theorem safe_fetchMarker : Safe fetchMarker :=
  safe_bind safe_getMarker fun _ => safe_bind (safe_look _) fun _ =>
    safe_ite (safe_bind safe_supplied fun _ => safe_skipPadding _ _) (safe_pure _)

theorem safe_runBlock : Safe runBlock :=
  safe_bind (safe_look _) fun _ => safe_ite
    (safe_bind safe_blkBaseline fun _ => safe_bind safe_idct fun _ => safe_bind safe_get fun _ => safe_placeBlock _ _ _) <|
    safe_ite safe_blkDcFirst <| safe_ite safe_blkDcRefine <| safe_ite safe_blkAcFirst safe_blkAcRefine

theorem safe_setBlockPos (p : Fin 4 × Nat × Nat) : Safe (setBlockPos p) := safe_upd_rest fun _ => rfl

theorem safe_runMcu : Safe runMcu :=
  safe_bind safe_get fun _ => safe_ite safe_runBlock
    (safe_forEach _ fun p => safe_bind (safe_setBlockPos p) fun _ => safe_runBlock)

theorem State.evolves_nextMcu (s : State) : s.Evolves s.nextMcu := by
  unfold State.nextMcu
  split <;> exact .of_watched rfl

theorem State.evolves_leaveScan (s : State) : s.Evolves s.leaveScan := by
  unfold State.leaveScan
  split
  · exact (s.evolves_setMarker (c := 0xFF) (by decide)).trans (.of_setPhase rfl (by decide))
  · exact .of_setPhase rfl (by decide)

theorem safe_endOfScan : Safe endOfScan :=
  safe_bind (safe_look _) fun _ => safe_bind (safe_onlyIf _ safe_seekMarker) fun _ => safe_upd State.evolves_leaveScan

theorem safe_mcuStep : Safe mcuStep :=
  safe_bind safe_runMcu fun _ => safe_bind (safe_look _) fun _ => safe_bind (safe_restartCheck _) fun _ =>
    safe_upd State.evolves_nextMcu

theorem safe_scanStep : Safe scanStep := safe_bind (safe_look _) fun _ => safe_ite safe_endOfScan safe_mcuStep

theorem safe_setupOutput : Safe setupOutput :=
  safe_bind (safe_look _) fun _ => safe_bind (safe_forEach _ safe_setupResampler) fun _ => safe_upd_rest fun _ => rfl

theorem safe_makeRow : Safe makeRow :=
  safe_bind (safe_look _) fun _ => safe_bind (safe_onlyIf _ safe_setupOutput) fun _ => safe_bind (safe_look _) fun _ =>
    safe_bind (safe_forEach _ safe_rowStep) fun _ => safe_upd_rest fun _ => rfl

theorem State.evolves_finishRow (j : BitVec 16) (data : List Byte) (s : State) : s.Evolves (s.finishRow j data) := by
  have hphase : (s.finishRow j data).phase = .done ∨ (s.finishRow j data).phase = s.phase := by
    unfold State.finishRow
    exact ite_eq_or_eq _ _ _
  refine ⟨id, rfl, rfl, fun he => ?_⟩
  rcases hphase with h | h
  · rw [h] at he; cases he
  · rwa [h] at he

theorem State.evolves_offerRow (s : State) : s.Evolves s.offerRow := by
  unfold State.offerRow
  split
  · exact .refl s
  · split
    · exact s.evolves_finishRow _ _
    · exact .refl s

/-! ### Host commands -/

/-- One write of CTRL, whatever instruction it decodes to (R27, R417). -/
theorem exec_decodeCtrl (w : BitVec 32) (s : State) :
    exec (decodeCtrl w) s = .next (s.ctrlWrite (w.getLsbD 2) (w.getLsbD 0) (w.getLsbD 1) (w.getLsbD 3)) := by
  unfold decodeCtrl
  cases w.getLsbD 2
  · cases w.getLsbD 0
    · cases w.getLsbD 1 <;> rfl
    · rfl
  · rfl

/-- A write of CTRL leaves what the invariants speak of, or gives it its reset values, in IDLE or SOI (R441, R442). -/
theorem State.ctrlWrite_watched (softReset start abort irqEn : Bool) (s : State) :
    (s.ctrlWrite softReset start abort irqEn).watched = s.watched ∨
      ∃ p : Phase, p ≠ .error ∧ (s.ctrlWrite softReset start abort irqEn).watched = (State.reset.setPhase p).watched := by
  have hstart (u : State) : u.start.watched = u.watched ∨ u.start.watched = (State.reset.setPhase .soi).watched := by
    unfold State.start
    split
    · exact .inr rfl
    · exact .inl rfl
  have habort (u : State) : u.requestAbort.watched = u.watched := by
    unfold State.requestAbort
    split <;> rfl
  cases softReset
  · cases start
    · cases abort
      · exact .inl rfl
      · exact .inl (habort s)
    · exact (hstart s).imp id fun h => ⟨.soi, by decide, h⟩
  · cases start
    · cases abort
      · exact .inr ⟨.idle, by decide, rfl⟩
      · exact .inr ⟨.idle, by decide, habort s.softReset⟩
    · exact .inr ((hstart s.softReset).elim (fun h => ⟨.idle, by decide, h⟩) fun h => ⟨.soi, by decide, h⟩)

theorem hostWrite_next {w : CsrWrite} {s t : State} (h : hostWrite w s = .next t) :
    t = s ∨ ∃ softReset start abort irqEn, t = s.ctrlWrite softReset start abort irqEn := by
  unfold hostWrite at h
  split at h
  · cases h
  · split at h
    · rw [exec_decodeCtrl] at h
      cases h
      exact .inr ⟨_, _, _, _, rfl⟩
    · cases h
      exact .inl rfl

/-! ### The invariants over `watched` -/

theorem State.inv_reset_setPhase (p : Phase) : (State.reset.setPhase p).Inv := by
  have hbits : State.reset.bits.Ok ∧ State.reset.bits.marker ≠ 0 := by decide
  exact ⟨hbits.1, hbits.2, planesWf_reset⟩

theorem State.errorRecorded_of_phase_ne {s : State} (h : s.phase ≠ .error) :
    s.ErrorRecorded ↔ s.errCode = 0 ∧ s.errClass = 0 := by
  rw [State.ErrorRecorded, if_neg h]

theorem State.errorRecorded_takeError (e : ErrCode) (s : State) : (s.takeError e).ErrorRecorded :=
  (if_pos (rfl : (s.takeError e).phase = .error)).mpr ⟨e, rfl, rfl⟩

theorem State.errorRecorded_of_watched {s t : State} (h : t.watched = s.watched) (hr : s.ErrorRecorded) : t.ErrorRecorded := by
  simp only [State.watched, Prod.mk.injEq] at h
  obtain ⟨-, -, hcode, hclass, hphase⟩ := h
  unfold State.ErrorRecorded
  rwa [hcode, hclass, hphase]

theorem State.ctrlWrite_inv (softReset start abort irqEn : Bool) {s : State} (h : s.Inv) :
    (s.ctrlWrite softReset start abort irqEn).Inv := by
  rcases s.ctrlWrite_watched softReset start abort irqEn with e | ⟨p, -, e⟩
  · exact (State.Evolves.of_watched e).inv h
  · exact (State.Evolves.of_watched e).inv (State.inv_reset_setPhase p)

theorem State.ctrlWrite_errorRecorded (softReset start abort irqEn : Bool) {s : State} (h : s.ErrorRecorded) :
    (s.ctrlWrite softReset start abort irqEn).ErrorRecorded := by
  rcases s.ctrlWrite_watched softReset start abort irqEn with e | ⟨p, hp, e⟩
  · exact State.errorRecorded_of_watched e h
  · exact State.errorRecorded_of_watched e ((State.errorRecorded_of_phase_ne hp).2 ⟨rfl, rfl⟩)

/-! ### What an outcome can be -/

/-- What a step does that begins in `s` and ends in `t`, its error taken: it keeps the invariant, and from a phase other than ERROR
it keeps the error record (R22, R410). -/
structure State.StepsTo (s t : State) : Prop where
  inv : s.Inv → t.Inv
  record : s.phase ≠ .error → s.ErrorRecorded → t.ErrorRecorded

theorem State.Evolves.stepsTo {s t : State} (h : s.Evolves t) : s.StepsTo t where
  inv := h.inv
  record hp hr := by
    obtain ⟨hcode, hclass⟩ := (State.errorRecorded_of_phase_ne hp).1 hr
    exact (State.errorRecorded_of_phase_ne (hp ∘ h.phase)).2 ⟨h.errCode.trans hcode, h.errClass.trans hclass⟩

theorem State.Evolves.takeError {s t : State} (h : s.Evolves t) (e : ErrCode) : s.StepsTo (t.takeError e) :=
  ⟨h.inv, fun _ _ => t.errorRecorded_takeError e⟩

theorem State.Evolves.then_stepsTo {s t u : State} (h : s.Evolves t) (h' : t.StepsTo u) : s.StepsTo u where
  inv := h'.inv ∘ h.inv
  record hp hr := h'.record (hp ∘ h.phase) (h.stepsTo.record hp hr)

theorem State.evolves_unheld (s : State) : s.Evolves s.unheld := .of_watched rfl
theorem State.evolves_hold (s : State) (n : BitVec 32) : s.Evolves (s.hold n) := .of_watched rfl

/-- Every next state that an outcome can be is one a step from `s` leads to. -/
def Answers (s : State) (o : Host.Outcome State Fault Refusal) : Prop := ∀ t, o = .next t → s.StepsTo t

theorem answers_next {s t : State} (h : s.StepsTo t) : Answers s (.next t) := by
  rintro _ ⟨⟩
  exact h

theorem answers_fault (s : State) (f : Fault) : Answers s (.fault f) := by
  intro _ h
  cases h

theorem answers_refused (s : State) (r : Refusal) : Answers s (.refused r) := by
  intro _ h
  cases h

theorem answers_of_evolves {s t : State} {o : Host.Outcome State Fault Refusal} (h : s.Evolves t) (ho : Answers t o) :
    Answers s o := fun u hu => h.then_stepsTo (ho u hu)

theorem answers_settle {α : Type} {m : Seq α} {s u : State} {k : α → State → Host.Outcome State Fault Refusal}
    (hu : s.Evolves u) (hm : Safe m) (hk : ∀ a t, s.Evolves t → Answers s (k a t)) : Answers s (settle s (m u) k) := by
  have h := hm s u hu
  cases hmu : m u with
  | ok a t => rw [hmu] at h; exact hk a t h
  | error e t =>
    rw [hmu] at h
    cases e with
    | raise e => exact answers_next (h.takeError e)
    | stall => exact answers_next (s.evolves_hold _).stepsTo
    | fault f => exact answers_fault s f

theorem answers_runOp {m : Seq Unit} (hm : Safe m) (s : State) : Answers s (runOp m s) :=
  answers_settle s.evolves_unheld hm fun _ _ h => answers_next h.stepsTo

theorem answers_runUnit {α : Type} {m : Seq α} (hm : Safe m) (f : α → BitVec 32) (s : State) : Answers s (runUnit m f s) := by
  refine answers_runOp (safe_bind hm fun _ => ?_) s
  exact safe_upd_rest fun _ => rfl

theorem answers_holdFrom {s : State} {o : Host.Outcome State Fault Refusal} (ho : Answers s o) : Answers s (holdFrom s o) := by
  cases o with
  | next t =>
    show Answers s (if t.ctl.stallIn then _ else _)
    split
    · exact answers_next (s.evolves_hold _).stepsTo
    · exact ho
  | fault f => exact answers_fault s f
  | refused r => exact answers_refused s r

theorem answers_ctrlWrite (softReset start abort irqEn : Bool) (s : State) :
    Answers s (.next (s.ctrlWrite softReset start abort irqEn)) :=
  answers_next ⟨State.ctrlWrite_inv _ _ _ _, fun _ => State.ctrlWrite_errorRecorded _ _ _ _⟩

/-! ### Every instruction -/

/-- Every instruction that a word decodes to: `res 0` is none, since FF 00 is STUFF (R101), and in SCAN it would latch the
marker 0x00. -/
theorem answers_exec {i : Instr} (hi : i ≠ .res 0) (s : State) : Answers s (exec i s) := by
  cases i with
  | soi => exact answers_runOp safe_soiMarker s
  | eoi => exact answers_runOp (safe_frameMarker (by decide) (safe_upd State.evolves_endOfImage)) s
  | rst m => exact answers_runOp (safe_rstMarker m) s
  | sof0 => exact answers_runOp (safe_sofMarker (by decide) _) s
  | sof1 => exact answers_runOp (safe_sofMarker (by decide) _) s
  | sof2 => exact answers_runOp (safe_sofMarker (by decide) _) s
  | dht => exact answers_runOp (safe_segmentMarker (by decide) safe_segDht) s
  | dqt => exact answers_runOp (safe_segmentMarker (by decide) safe_segDqt) s
  | sos => exact answers_runOp (safe_frameMarker (by decide) safe_startOfScan) s
  | dri => exact answers_runOp (safe_segmentMarker (by decide) safe_segDri) s
  | dnl => exact answers_runOp (safe_frameMarker (by decide) safe_segDnl) s
  | app0 => exact answers_runOp (safe_segmentMarker (by decide) (safe_segApp safe_recogniseJfif)) s
  | app14 => exact answers_runOp (safe_segmentMarker (by decide) (safe_segApp safe_recogniseAdobe)) s
  | appn n => exact answers_runOp (safe_segmentMarker (appCode_ne_zero n) (safe_segApp safe_recogniseNone)) s
  | com => exact answers_runOp (safe_segmentMarker (by decide) (safe_segApp safe_recogniseNone)) s
  | sof3 | sof5 | sof6 | sof7 | sof9 | sof10 | sof11 | dac | sof13 | sof14 | sof15 | dhp | exp =>
    exact answers_runOp (safe_refusedMarker (by decide)) s
  | stuff => exact answers_runOp safe_stuffMarker s
  | res code => exact answers_runOp (safe_segmentMarker (fun h => hi (by rw [h])) (safe_raise _)) s
  | dcDiff t => exact answers_runOp (safe_ite (safe_dcFirstSymbol _) (safe_dcBaseline _)) s
  | acCoef r c => exact answers_runOp (safe_acCoef _ _) s
  | acZrl => exact answers_runOp safe_acSkip16 s
  | acEob r => exact answers_runOp safe_endBlock s
  | acpCoef r c => exact answers_runOp (safe_acpCoef _ _) s
  | acpZrl => exact answers_runOp safe_acSkip16 s
  | acpEobrun r => exact answers_runOp (safe_acpEobrun _) s
  | acrCoef r => exact answers_runOp (safe_acrCoef _) s
  | acrZrl => exact answers_runOp safe_acrZrl s
  | acrEobrun r => exact answers_runOp (safe_acrEobrun _) s
  | acrBad r c => exact answers_runOp (safe_raise _) s
  | dcRefineBit b => exact answers_runOp (safe_dcRefineWith (safe_pure _)) s
  | mag n v => exact answers_runUnit (safe_pure _) _ s
  | blkBaseline => exact answers_runOp safe_blkBaseline s
  | blkDcFirst => exact answers_runOp safe_blkDcFirst s
  | blkDcRefine => exact answers_runOp safe_blkDcRefine s
  | blkAcFirst => exact answers_runOp safe_blkAcFirst s
  | blkAcRefine => exact answers_runOp safe_blkAcRefine s
  | idct => exact answers_runOp safe_idct s
  | dequantIdct => exact answers_runOp safe_dequantIdct s
  | rs1x1 => exact answers_runOp (safe_putLine fun u _ => kernel1x1 u.inNear) s
  | rsV2 => exact answers_runOp (safe_putLine fun u _ => kernelV2 u.inNear u.inFar) s
  | rsH2 => exact answers_runOp (safe_putLine fun u _ => kernelH2 u.inNear) s
  | rsHv2 => exact answers_runOp (safe_putLine fun u _ => kernelHV2 u.inNear u.inFar) s
  | rsGeneric => exact answers_runOp (safe_putLine fun u r => kernelGeneric r.hs.toNat u.inNear) s
  | ccGray | ccRgb | ccYcbcr | ccCmyk | ccYcck | ccYcbcrK => exact answers_runOp (safe_convertPixel _) s
  | restart => exact answers_runOp (safe_restartCheck _) s
  | reset => exact answers_runOp (safe_upd State.evolves_resetEntropy) s
  | hufBuild => exact answers_runOp (safe_hufBuild _ _ _) s
  | fastacBuild => exact answers_runOp (safe_fastacBuild _) s
  | fill => exact answers_runOp safe_fillBits s
  | decodeHuff => exact answers_runUnit (safe_decodeHuffman _ _) _ s
  | getBits => exact answers_runUnit (safe_getBits _) _ s
  | getBit => exact answers_runUnit safe_getBit _ s
  | receiveExtend => exact answers_runUnit (safe_receiveExtend _) _ s
  | getMarker => exact answers_runUnit safe_getMarker _ s
  | seekMarker => exact answers_runOp safe_seekMarker s
  | ctrlStart | ctrlAbort | ctrlSoftReset | ctrlIrqEn => exact answers_ctrlWrite _ _ _ _ s

/-! ### The decoder never gives `res 0` -/

theorem lookupRow_mem {key : Byte} {i : Instr} {rows : List (Byte × Instr)} (h : lookupRow key rows = some i) :
    (key, i) ∈ rows := by
  induction rows with
  | nil => cases h
  | cons p rows ih =>
    obtain ⟨k, j⟩ := p
    unfold lookupRow at h
    split at h
    · rename_i hk
      cases h
      simp [hk]
    · exact List.mem_cons_of_mem _ (ih h)

theorem decodeCode_ne_res_zero (c : Byte) : decodeCode c ≠ .ok (.res 0) := by
  have hrows : ∀ p ∈ exactMarkers, p.2 ≠ .res 0 := by decide
  have hstuff : lookupRow 0 exactMarkers ≠ none := by decide
  intro h
  unfold decodeCode at h
  split at h
  · cases h
  · split at h
    · rename_i hrow
      cases h
      exact hrows _ (lookupRow_mem hrow) rfl
    · rename_i hrow
      split at h
      · cases h
      · split at h <;> cases h
        exact hstuff hrow

theorem decode_ne_res_zero (e : Enc) : decode e ≠ .ok (.res 0) := by
  intro h
  cases e with
  | marker w =>
    simp only [decode, decodeMarker] at h
    split at h
    · exact decodeCode_ne_res_zero _ h
    · cases h
  | dcSym b =>
    simp only [decode, decodeDcSym] at h
    split_ifs at h
    cases h
  | acSym b =>
    simp only [decode, decodeAcSym] at h
    split_ifs at h <;> cases h
  | acpSym b =>
    simp only [decode, decodeAcpSym] at h
    split_ifs at h <;> cases h
  | acrSym b =>
    simp only [decode, decodeAcrSym] at h
    split_ifs at h <;> cases h
  | dcrBit b => cases h
  | mag n v =>
    simp only [decode, decodeMag] at h
    split_ifs at h
    cases h
  | unit sel =>
    have hrows : ∀ p ∈ selectors, p.2 ≠ .res 0 := by decide
    simp only [decode, decodeSelector] at h
    split at h
    · rename_i hrow
      cases h
      exact hrows _ (lookupRow_mem hrow) rfl
    · cases h
  | ctrl w =>
    simp only [decode, decodeCtrl] at h
    split_ifs at h <;> cases h

/-! ### One step -/

theorem answers_exec_decodeCtrl (w : BitVec 32) (s : State) : Answers s (exec (decodeCtrl w) s) := by
  rw [exec_decodeCtrl]
  exact answers_ctrlWrite _ _ _ _ s

theorem answers_hostWrite (w : CsrWrite) (s : State) : Answers s (hostWrite w s) := by
  intro t h
  rcases hostWrite_next h with rfl | ⟨_, _, _, _, rfl⟩
  · exact (State.Evolves.refl t).stepsTo
  · exact answers_ctrlWrite _ _ _ _ s _ rfl

theorem answers_dispatchMarker (m : Byte) (s : State) : Answers s (dispatchMarker m s) := by
  unfold dispatchMarker
  split
  · rename_i i hi
    exact answers_exec (fun h => decodeCode_ne_res_zero m (h ▸ hi)) s
  · exact answers_next ((State.Evolves.refl s).takeError _)

theorem answers_markerStep (s : State) : Answers s (markerStep s) :=
  answers_settle s.evolves_unheld safe_fetchMarker fun m t ht =>
    answers_holdFrom (answers_of_evolves ht (answers_dispatchMarker m t))

theorem answers_outputStep (s : State) : Answers s (outputStep s) := by
  unfold outputStep
  split
  · exact answers_next s.evolves_offerRow.stepsTo
  · exact answers_settle s.evolves_unheld safe_makeRow fun _ t ht => answers_next (ht.trans t.evolves_offerRow).stepsTo

theorem answers_phaseStep (s : State) : Answers s (phaseStep s) := by
  unfold phaseStep
  cases s.phase with
  | soi | header | frame => exact answers_markerStep s
  | scan => exact answers_runOp safe_scanStep s
  | finish => exact answers_exec (by decide) s
  | output => exact answers_outputStep s
  | idle | done | error => exact answers_next (State.Evolves.refl s).stepsTo

theorem answers_sequencerStep (s : State) : Answers s (sequencerStep s) := by
  unfold sequencerStep
  split
  · exact answers_next (State.Evolves.refl s).stepsTo
  · split
    · exact answers_next ((State.Evolves.refl s).takeError _)
    · exact answers_phaseStep s

theorem answers_issueStep (e : Enc) (s : State) : Answers s (issueStep e s) := by
  have hissue : s.Evolves { s with issue := none } := .of_watched rfl
  unfold issueStep
  split
  · exact answers_of_evolves hissue (answers_exec_decodeCtrl _ _)
  · rename_i i _ hi
    exact answers_holdFrom (answers_of_evolves hissue (answers_exec (fun h => decode_ne_res_zero _ (h ▸ hi)) _))
  · exact answers_next (hissue.takeError _)
  · exact answers_refused s _

theorem answers_step (s : State) : Answers s (step s) := by
  unfold step
  split
  · refine answers_of_evolves ?_ (answers_hostWrite _ _)
    exact .of_watched rfl
  · exact answers_issueStep _ s
  · exact answers_sequencerStep s

/-- In ERROR only a write of CTRL changes what the invariants speak of (R210, R413). -/
theorem step_errorRecorded_of_error {s t : State} (hp : s.phase = .error) (hi : s.issue = none) (hr : s.ErrorRecorded)
    (h : step s = .next t) : t.ErrorRecorded := by
  cases hw : s.port.writes with
  | nil =>
    rw [step_ownTurn ⟨hw, hi⟩, sequencerStep, hp] at h
    cases h
    exact hr
  | cons w rest =>
    rw [step_write hw] at h
    rcases hostWrite_next h with rfl | ⟨_, _, _, _, rfl⟩
    · exact State.errorRecorded_of_watched rfl hr
    · exact State.ctrlWrite_errorRecorded _ _ _ _ (State.errorRecorded_of_watched (t := { s with port := _ }) rfl hr)

/-! ### The obligations -/

/-- Settles O9: every piece of every rule keeps the invariant (`Safe`), and so does every outcome of a step. -/
theorem invariantKept : Obligations.InvariantKept :=
  fun s t hs h => (answers_step s t h).inv hs

/-- Settles O8: outside ERROR a step raises at its end or writes no record; in ERROR only a write of CTRL acts. -/
theorem errorRecordKept : Obligations.ErrorRecordKept := by
  intro s t hr hi h
  by_cases hp : s.phase = .error
  · exact step_errorRecorded_of_error hp hi hr h
  · exact (answers_step s t h).record hp hr

/-- Settles O4: the four decodings of a value of CTRL are one write of its four bits. -/
theorem ctrlWordEffect : Obligations.CtrlWordEffect := exec_decodeCtrl

/-! ### The CSR window -/

theorem bit_le_one (b : Bool) : bit b ≤ 1 := Nat.le_of_lt_succ b.toNat_lt

/-- One bit of a register written as a sum of fields. -/
theorem getLsbD_ofNat_eq {n i : Nat} {b : Bool} (hi : i < 32) (h : n / 2 ^ i % 2 = bit b) :
    (BitVec.ofNat 32 n).getLsbD i = b := by
  rw [BitVec.getLsbD_ofNat, Nat.testBit_eq_decide_div_mod_eq, h]
  cases b <;> simp [hi, bit]

/-- A field of a register written as a sum of fields. -/
theorem extractLsb'_ofNat_eq {n i w : Nat} {x : BitVec w} (hw : i + w ≤ 32) (h : n / 2 ^ i % 2 ^ w = x.toNat) :
    (BitVec.ofNat 32 n).extractLsb' i w = x := by
  apply BitVec.eq_of_toNat_eq
  have hsplit : 2 ^ 32 = 2 ^ i * 2 ^ (32 - i) := by rw [← Nat.pow_add]; congr 1; omega
  rw [BitVec.extractLsb'_toNat, BitVec.toNat_ofNat, Nat.shiftRight_eq_div_pow, hsplit, Nat.mod_mul_right_div_self,
    Nat.mod_mod_of_dvd _ (Nat.pow_dvd_pow 2 (by omega)), h]

/-- A reserved field of a register written as a sum of fields. -/
theorem extractLsb'_ofNat_zero {n i w : Nat} (hw : i + w ≤ 32) (h : n / 2 ^ i % 2 ^ w = 0) :
    (BitVec.ofNat 32 n).extractLsb' i w = 0 :=
  extractLsb'_ofNat_eq hw (h.trans BitVec.toNat_zero.symm)

theorem Phase.bit_busy (p : Phase) : bit p.busy = bit (decide (1 ≤ p.code.toNat ∧ p.code.toNat ≤ 6)) := by cases p <;> rfl
theorem Phase.bit_done (p : Phase) : bit (p == .done) = bit (decide (p.code.toNat = 7)) := by cases p <;> rfl
theorem Phase.bit_error (p : Phase) : bit (p == .error) = bit (decide (p.code.toNat = 8)) := by cases p <;> rfl

/-- The fields of STATUS (R28). -/
theorem State.csrStatus_fields (s : State) :
    s.csrStatus.getLsbD 0 = decide (1 ≤ s.phase.code.toNat ∧ s.phase.code.toNat ≤ 6) ∧
    s.csrStatus.getLsbD 1 = decide (s.phase.code.toNat = 7) ∧ s.csrStatus.getLsbD 2 = decide (s.phase.code.toNat = 8) ∧
    s.csrStatus.getLsbD 3 = s.ctl.geomValid ∧ s.csrStatus.getLsbD 4 = s.ctl.stallIn ∧
    s.csrStatus.getLsbD 5 = s.rowPending.isSome ∧ s.csrStatus.getLsbD 6 = s.ctl.abortReq ∧ s.csrStatus.getLsbD 7 = false ∧
    s.csrStatus.extractLsb' 8 4 = s.phase.code ∧ s.csrStatus.getLsbD 12 = s.frame.progressive ∧
    s.csrStatus.extractLsb' 13 19 = 0 := by
  have hfalse : bit false = 0 := rfl
  have hcode := s.phase.code.isLt
  have hbusy := bit_le_one (decide (1 ≤ s.phase.code.toNat ∧ s.phase.code.toNat ≤ 6))
  have hdone := bit_le_one (decide (s.phase.code.toNat = 7))
  have herror := bit_le_one (decide (s.phase.code.toNat = 8))
  have hgeom := bit_le_one s.ctl.geomValid
  have hstall := bit_le_one s.ctl.stallIn
  have hrow := bit_le_one s.rowPending.isSome
  have habort := bit_le_one s.ctl.abortReq
  have hprog := bit_le_one s.frame.progressive
  unfold State.csrStatus
  rw [s.phase.bit_busy, s.phase.bit_done, s.phase.bit_error]
  refine ⟨getLsbD_ofNat_eq (by decide) ?_, getLsbD_ofNat_eq (by decide) ?_, getLsbD_ofNat_eq (by decide) ?_,
    getLsbD_ofNat_eq (by decide) ?_, getLsbD_ofNat_eq (by decide) ?_, getLsbD_ofNat_eq (by decide) ?_,
    getLsbD_ofNat_eq (by decide) ?_, getLsbD_ofNat_eq (by decide) ?_, extractLsb'_ofNat_eq (by decide) ?_,
    getLsbD_ofNat_eq (by decide) ?_, extractLsb'_ofNat_zero (by decide) ?_⟩ <;> omega

/-- Settles O16, field by field. -/
theorem statusFields : Obligations.StatusFields := ⟨fun s => ⟨s.csrStatus, rfl, s.csrStatus_fields⟩, by decide⟩

/-- The fields of CTRL as read (R27). -/
theorem State.csrCtrl_fields (s : State) :
    s.csrCtrl.getLsbD 3 = s.ctl.irqEn ∧ s.csrCtrl.extractLsb' 0 3 = 0 ∧ s.csrCtrl.extractLsb' 4 28 = 0 := by
  have hirq := bit_le_one s.ctl.irqEn
  refine ⟨getLsbD_ofNat_eq (by decide) ?_, extractLsb'_ofNat_zero (by decide) ?_, extractLsb'_ofNat_zero (by decide) ?_⟩ <;> omega

/-- The fields of ERROR (R29). -/
theorem State.csrError_fields (s : State) :
    s.csrError.extractLsb' 0 8 = s.errCode ∧ s.csrError.extractLsb' 8 3 = s.errClass ∧ s.csrError.extractLsb' 11 21 = 0 := by
  have hcode := s.errCode.isLt
  have hclass := s.errClass.isLt
  refine ⟨extractLsb'_ofNat_eq (by decide) ?_, extractLsb'_ofNat_eq (by decide) ?_, extractLsb'_ofNat_zero (by decide) ?_⟩ <;> omega

/-- The fields of IMG_SIZE (R30). -/
theorem State.csrImgSize_fields (s : State) :
    s.csrImgSize.extractLsb' 0 16 = s.frame.imgX ∧ s.csrImgSize.extractLsb' 16 16 = s.frame.imgY :=
  ⟨BitVec.extractLsb'_append_eq_right, BitVec.extractLsb'_append_eq_left⟩

/-- What bit 17 of IMG_INFO shows (R31, R371). -/
theorem State.isRgbShown_eq (s : State) : s.isRgbShown =
    if s.phase = .output ∨ s.phase = .done then s.isRgbFrame else s.phase == .error && s.flags.isRgb := by
  unfold State.isRgbShown
  cases s.phase <;> rfl

/-- The fields of IMG_INFO (R31). -/
theorem State.csrImgInfo_fields (s : State) :
    s.csrImgInfo.extractLsb' 0 3 = s.frame.imgN ∧ s.csrImgInfo.extractLsb' 3 3 = s.frame.outN ∧
    s.csrImgInfo.getLsbD 6 = s.frame.progressive ∧ s.csrImgInfo.getLsbD 7 = s.flags.jfif ∧
    s.csrImgInfo.getLsbD 8 = s.flags.app14Valid ∧
    s.csrImgInfo.extractLsb' 9 8 = (if s.flags.app14Valid then s.flags.app14 else 0) ∧
    s.csrImgInfo.getLsbD 17 = s.isRgbShown ∧ s.csrImgInfo.extractLsb' 18 14 = 0 := by
  have hn := s.frame.imgN.isLt
  have hout := s.frame.outN.isLt
  have hprog := bit_le_one s.frame.progressive
  have hjfif := bit_le_one s.flags.jfif
  have hvalid := bit_le_one s.flags.app14Valid
  have hrgb := bit_le_one s.isRgbShown
  have htransform : (if s.flags.app14Valid then s.flags.app14.toNat else 0) =
      (if s.flags.app14Valid then s.flags.app14 else 0 : Byte).toNat := by split <;> rfl
  have happ := (if s.flags.app14Valid then s.flags.app14 else 0 : Byte).isLt
  unfold State.csrImgInfo
  rw [htransform]
  refine ⟨extractLsb'_ofNat_eq (by decide) ?_, extractLsb'_ofNat_eq (by decide) ?_, getLsbD_ofNat_eq (by decide) ?_,
    getLsbD_ofNat_eq (by decide) ?_, getLsbD_ofNat_eq (by decide) ?_, extractLsb'_ofNat_eq (by decide) ?_,
    getLsbD_ofNat_eq (by decide) ?_, extractLsb'_ofNat_zero (by decide) ?_⟩ <;> omega

/-- The fields of LAST_MARKER (R34). -/
theorem State.csrLastMarker_fields (s : State) :
    s.csrLastMarker.extractLsb' 0 8 = s.lastMarker ∧ s.csrLastMarker.getLsbD 8 = s.lastMarkerValid ∧
    s.csrLastMarker.extractLsb' 9 23 = 0 := by
  have hmarker := s.lastMarker.isLt
  have hvalid := bit_le_one s.lastMarkerValid
  refine ⟨extractLsb'_ofNat_eq (by decide) ?_, getLsbD_ofNat_eq (by decide) ?_, extractLsb'_ofNat_zero (by decide) ?_⟩ <;> omega

/-- The value of PARAMS (R35). -/
theorem State.csrParams_eq (s : State) : s.csrParams = if s.cfg.strictBaselineSpecEnd then 0x1449 else 0x449 := by
  unfold State.csrParams
  cases s.cfg.strictBaselineSpecEnd <;> rfl

/-- An aligned offset past the listed registers reads 0 (R26). -/
theorem State.csrRead_unlisted (s : State) {o : BitVec 6} (ho : 0x24 ≤ o.toNat) (ha : o.toNat % 4 = 0) :
    s.csrRead o = some 0 := by
  unfold State.csrRead
  rw [if_neg (not_not.2 ha)]
  split
  case h_10 => rfl
  all_goals omega

/-- A write at an aligned offset other than that of CTRL is ignored (R26). -/
theorem hostWrite_ignored {w : CsrWrite} (hw : w.offset ≠ 0) (ha : w.offset.toNat % 4 = 0) (s : State) :
    hostWrite w s = .next s := by
  rw [hostWrite, if_neg (not_not.2 ha), if_neg hw]

/-- Settles O17: register by register, then the other offsets. -/
theorem otherCsrFields : Obligations.OtherCsrFields := by
  refine ⟨fun s => ?_, fun s o => s.csrRead_unlisted, fun s o ha => if_pos ha, fun s w rest h hw ha => ?_⟩
  · obtain ⟨hirq, hlow, hhigh⟩ := s.csrCtrl_fields
    obtain ⟨hcode, hclass, herror⟩ := s.csrError_fields
    obtain ⟨hx, hy⟩ := s.csrImgSize_fields
    obtain ⟨hn, hout, hprog, hjfif, hvalid, happ, hrgb, hinfo⟩ := s.csrImgInfo_fields
    obtain ⟨hlast, hlastValid, hrest⟩ := s.csrLastMarker_fields
    exact ⟨s.csrCtrl, s.csrError, s.csrImgSize, s.csrImgInfo, s.csrBytePos, s.rowsEmitted, s.csrLastMarker, s.csrParams,
      rfl, rfl, rfl, rfl, rfl, rfl, rfl, rfl, hirq, hlow, hhigh, hcode, hclass, herror, hx, hy, hn, hout, hprog, hjfif, hvalid, happ,
      hrgb.trans s.isRgbShown_eq, hinfo, rfl, rfl, hlast, hlastValid, hrest, s.csrParams_eq⟩
  · rw [step_write h]
    exact hostWrite_ignored hw ha _

end Sys2Proof.Machine

/-! PROOFS of the statements about the encoding (30_encoding.md): the words of each level are taken apart once, the decoder is said on
the encoder's words, and its answers are listed; then what a marker and a magnitude field do when they are run. -/

namespace Sys2Proof.Machine

/-! ### The words of each level -/

/-- The code of a marker word (R100). -/
theorem markerWord_code (c : Byte) : (markerWord c).truncate 8 = c :=
  BitVec.extractLsb'_append_eq_right

/-- On a marker word the decoder reads its code (R100). -/
theorem decode_markerWord (c : Byte) : decode (.marker (markerWord c)) = decodeCode c := by
  have hfirst : (markerWord c).extractLsb' 8 8 = 0xFF := BitVec.extractLsb'_append_eq_left
  rw [decode, decodeMarker, if_pos hfirst, markerWord_code]

/-- A word that decodes as a marker is the marker word of its code (R100). -/
theorem eq_markerWord_of_decode {w : BitVec 16} {i : Instr} (h : decode (.marker w) = .ok i) :
    ∃ c, w = markerWord c ∧ decodeCode c = .ok i := by
  simp only [decode, decodeMarker] at h
  split at h
  · rename_i hfirst
    have hw : w.extractLsb' 8 8 ++ w.extractLsb' 0 8 = w := BitVec.extractLsb'_append_extractLsb'
    refine ⟨w.extractLsb' 0 8, ?_, h⟩
    rw [markerWord, ← hfirst, hw]
  · cases h

@[simp] theorem runOf_symByte (r s : BitVec 4) : runOf (symByte r s) = r := BitVec.extractLsb'_append_eq_left
@[simp] theorem catOf_symByte (r s : BitVec 4) : catOf (symByte r s) = s := BitVec.extractLsb'_append_eq_right

/-- A symbol byte is its run and its category (R117). -/
theorem exists_symByte (b : Byte) : ∃ r s, b = symByte r s := by
  have hb : symByte (runOf b) (catOf b) = b := BitVec.extractLsb'_append_extractLsb'
  exact ⟨_, _, hb.symm⟩

/-- The symbol byte 0xF0 is run 15, category 0 (R117). -/
theorem symByte_eq_F0 {r s : BitVec 4} : symByte r s = 0xF0 ↔ r = 15 ∧ s = 0 := by
  refine ⟨fun h => ⟨?_, ?_⟩, fun ⟨hr, hs⟩ => by rw [hr, hs]; rfl⟩
  · rw [← runOf_symByte r s, h]; rfl
  · rw [← catOf_symByte r s, h]; rfl

/-- The command bits of a CTRL word (R27). -/
theorem decodeCtrl_ctrlWord (start abort softReset irqEn : Bool) :
    decodeCtrl (ctrlWord start abort softReset irqEn) =
      if softReset then .ctrlSoftReset start abort irqEn
      else if start then .ctrlStart abort irqEn
      else if abort then .ctrlAbort irqEn
      else .ctrlIrqEn irqEn := by
  revert start abort softReset irqEn
  decide

/-! ### The decoder on the fields of a word -/

theorem decode_dcSym (r t : BitVec 4) :
    decode (.dcSym (symByte r t)) = if r = 0 then .ok (.dcDiff t) else .error .dcCategory := by
  simp [decode, decodeDcSym]

theorem decode_acSym (r s : BitVec 4) :
    decode (.acSym (symByte r s)) =
      if r = 15 ∧ s = 0 then .ok .acZrl else if s = 0 then .ok (.acEob r) else .ok (.acCoef r s) := by
  rw [decode, decodeAcSym, runOf_symByte, catOf_symByte, if_congr symByte_eq_F0 rfl rfl]

theorem decode_acpSym (r s : BitVec 4) :
    decode (.acpSym (symByte r s)) =
      if r = 15 ∧ s = 0 then .ok .acpZrl else if s = 0 then .ok (.acpEobrun r) else .ok (.acpCoef r s) := by
  rw [decode, decodeAcpSym, runOf_symByte, catOf_symByte, if_congr symByte_eq_F0 rfl rfl]

theorem decode_acrSym (r s : BitVec 4) :
    decode (.acrSym (symByte r s)) =
      if r = 15 ∧ s = 0 then .ok .acrZrl else if s = 0 then .ok (.acrEobrun r)
      else if s = 1 then .ok (.acrCoef r) else .ok (.acrBad r s) := by
  rw [decode, decodeAcrSym, runOf_symByte, catOf_symByte, if_congr symByte_eq_F0 rfl rfl]

theorem decode_mag (n : BitVec 4) (v : BitVec 15) :
    decode (.mag n v) =
      if n = 0 then .error .emptyMagnitude else if v.toNat < 2 ^ n.toNat then .ok (.mag n v) else .error .magnitudeBits := rfl

/-- The answers at a level whose symbols have a run and a category: ZRL, the symbols of category 0, and the others (R117 to R119). -/
theorem runSymbol_ok {r s : BitVec 4} {zrl eob i : Instr} {other : Except Reject Instr}
    (h : (if r = 15 ∧ s = 0 then .ok zrl else if s = 0 then .ok eob else other) = .ok i) :
    (r = 15 ∧ s = 0 ∧ i = zrl) ∨ (r ≠ 15 ∧ s = 0 ∧ i = eob) ∨ (s ≠ 0 ∧ other = .ok i) := by
  split_ifs at h with hF0 hs
  · cases h
    exact .inl ⟨hF0.1, hF0.2, rfl⟩
  · cases h
    exact .inr (.inl ⟨fun hr => hF0 ⟨hr, hs⟩, hs, rfl⟩)
  · exact .inr (.inr ⟨hs, h⟩)

/-! ### Marker codes (R101) -/

theorem decodeCode_rstCode : ∀ m : BitVec 3, decodeCode (rstCode m) = .ok (.rst m) := by decide

theorem decodeCode_appCode : ∀ n : BitVec 4, n ≠ 0 → n ≠ 14 → decodeCode (0xE0 ||| n.zeroExtend 8) = .ok (.appn n) := by
  decide

theorem decodeCode_of_resCode : ∀ c : Byte, resCode c = true → decodeCode c = .ok (.res c) := by decide

/-- The rows that a marker code can decode to: its own row, RSTm, APPn but for APP0 and APP14, or RES (R101). -/
theorem decodeCode_ok {c : Byte} {i : Instr} (h : decodeCode c = .ok i) :
    (c, i) ∈ exactMarkers ∨ (∃ m, c = rstCode m ∧ i = .rst m) ∨
      (∃ n, n ≠ 0 ∧ n ≠ 14 ∧ c = 0xE0 ||| n.zeroExtend 8 ∧ i = .appn n) ∨ (resCode c = true ∧ i = .res c) := by
  have hrst : ∀ c : Byte, c &&& 0xF8 = 0xD0 → c = rstCode (c.truncate 3) := by decide
  have happ : ∀ c : Byte, lookupRow c exactMarkers = none → c &&& 0xF0 = 0xE0 →
      c.truncate 4 ≠ 0 ∧ c.truncate 4 ≠ 14 ∧ c = 0xE0 ||| (c.truncate 4).zeroExtend 8 := by decide
  have hres : ∀ c : Byte, c ≠ 0xFF → lookupRow c exactMarkers = none → ¬c &&& 0xF8 = 0xD0 → ¬c &&& 0xF0 = 0xE0 →
      resCode c = true := by decide
  unfold decodeCode at h
  split at h
  case isTrue => cases h
  case isFalse hfill =>
    split at h
    case h_1 j hrow =>
      cases h
      exact .inl (lookupRow_mem hrow)
    case h_2 hrow =>
      split_ifs at h with hD0 hE0 <;> cases h
      · exact .inr (.inl ⟨_, hrst c hD0, rfl⟩)
      · obtain ⟨h0, h14, hc⟩ := happ c hrow hE0
        exact .inr (.inr (.inl ⟨_, h0, h14, hc, rfl⟩))
      · exact .inr (.inr (.inr ⟨hres c hfill hrow hD0 hE0, rfl⟩))

/-! ### Decoding an encoded instruction -/

/-- Settles O1, row by row: a row without operands is looked up in the tables, one with operands is taken apart into its fields. -/
theorem decodeOfEncode : Obligations.DecodeOfEncode := by
  intro i hwf
  cases i with
  | rst m => exact (decode_markerWord _).trans (decodeCode_rstCode m)
  | appn n =>
    have hn : n ≠ 0 ∧ n ≠ 14 := by simpa [Instr.wf] using hwf
    exact (decode_markerWord _).trans (decodeCode_appCode n hn.1 hn.2)
  | res code => exact (decode_markerWord _).trans (decodeCode_of_resCode code hwf)
  | dcDiff t => exact decode_dcSym 0 t
  | acCoef r s =>
    have hs : s ≠ 0 := bne_iff_ne.1 hwf
    exact (decode_acSym r s).trans (by rw [if_neg (fun h => hs h.2), if_neg hs])
  | acEob r =>
    have hr : r ≠ 15 := bne_iff_ne.1 hwf
    exact (decode_acSym r 0).trans (by rw [if_neg (fun h => hr h.1), if_pos rfl])
  | acpCoef r s =>
    have hs : s ≠ 0 := bne_iff_ne.1 hwf
    exact (decode_acpSym r s).trans (by rw [if_neg (fun h => hs h.2), if_neg hs])
  | acpEobrun r =>
    have hr : r ≠ 15 := bne_iff_ne.1 hwf
    exact (decode_acpSym r 0).trans (by rw [if_neg (fun h => hr h.1), if_pos rfl])
  | acrCoef r => exact (decode_acrSym r 1).trans (by simp)
  | acrEobrun r =>
    have hr : r ≠ 15 := bne_iff_ne.1 hwf
    exact (decode_acrSym r 0).trans (by rw [if_neg (fun h => hr h.1), if_pos rfl])
  | acrBad r s =>
    have hs : s ≠ 0 ∧ s ≠ 1 := by simpa [Instr.wf] using hwf
    exact (decode_acrSym r s).trans (by rw [if_neg (fun h => hs.1 h.2), if_neg hs.1, if_neg hs.2])
  | dcRefineBit b => cases b <;> rfl
  | mag n v =>
    have hv : n ≠ 0 ∧ v.toNat < 2 ^ n.toNat := by simpa [Instr.wf] using hwf
    exact (decode_mag n v).trans (by rw [if_neg hv.1, if_pos hv.2])
  | ctrlStart abort irqEn => exact congrArg Except.ok (decodeCtrl_ctrlWord true abort false irqEn)
  | ctrlAbort irqEn => exact congrArg Except.ok (decodeCtrl_ctrlWord false true false irqEn)
  | ctrlSoftReset start abort irqEn => exact congrArg Except.ok (decodeCtrl_ctrlWord start abort true irqEn)
  | ctrlIrqEn level => exact congrArg Except.ok (decodeCtrl_ctrlWord false false false level)
  | _ => rfl

/-! ### Encoding a decoded instruction -/

theorem encode_of_mem_exactMarkers : ∀ row ∈ exactMarkers,
    row.2.wf = true ∧ encode row.2 = .marker (markerWord row.1) := by decide

theorem encode_of_mem_selectors : ∀ row ∈ selectors, row.2.wf = true ∧ encode row.2 = .unit row.1 := by decide

/-- What a marker code decodes to is well formed, and it is encoded as that code (R101). -/
theorem encode_of_decodeCode {c : Byte} {i : Instr} (h : decodeCode c = .ok i) :
    i.wf = true ∧ encode i = .marker (markerWord c) := by
  rcases decodeCode_ok h with hrow | ⟨m, rfl, rfl⟩ | ⟨n, h0, h14, rfl, rfl⟩ | ⟨hres, rfl⟩
  · exact encode_of_mem_exactMarkers _ hrow
  · exact ⟨rfl, rfl⟩
  · exact ⟨Bool.and_eq_true_iff.2 ⟨bne_iff_ne.2 h0, bne_iff_ne.2 h14⟩, rfl⟩
  · exact ⟨hres, rfl⟩

/-- A value of CTRL decodes to a well-formed instruction (R27). -/
theorem decodeCtrl_wf (w : BitVec 32) : (decodeCtrl w).wf = true := by
  unfold decodeCtrl
  split_ifs <;> rfl

/-- Settles O2, level by level: each answer of the decoder is encoded as the fields it was read from. -/
theorem encodeOfDecode : Obligations.EncodeOfDecode := by
  intro e i h
  cases e with
  | marker w =>
    obtain ⟨c, rfl, hc⟩ := eq_markerWord_of_decode h
    exact ⟨(encode_of_decodeCode hc).1, fun _ => (encode_of_decodeCode hc).2⟩
  | dcSym b =>
    obtain ⟨r, t, rfl⟩ := exists_symByte b
    rw [decode_dcSym] at h
    split_ifs at h with hr
    cases h
    exact ⟨rfl, fun _ => by rw [hr]; rfl⟩
  | acSym b =>
    obtain ⟨r, s, rfl⟩ := exists_symByte b
    rw [decode_acSym] at h
    obtain ⟨rfl, rfl, rfl⟩ | ⟨hr, rfl, rfl⟩ | ⟨hs, ⟨⟩⟩ := runSymbol_ok h
    · exact ⟨rfl, fun _ => rfl⟩
    · exact ⟨bne_iff_ne.2 hr, fun _ => rfl⟩
    · exact ⟨bne_iff_ne.2 hs, fun _ => rfl⟩
  | acpSym b =>
    obtain ⟨r, s, rfl⟩ := exists_symByte b
    rw [decode_acpSym] at h
    obtain ⟨rfl, rfl, rfl⟩ | ⟨hr, rfl, rfl⟩ | ⟨hs, ⟨⟩⟩ := runSymbol_ok h
    · exact ⟨rfl, fun _ => rfl⟩
    · exact ⟨bne_iff_ne.2 hr, fun _ => rfl⟩
    · exact ⟨bne_iff_ne.2 hs, fun _ => rfl⟩
  | acrSym b =>
    obtain ⟨r, s, rfl⟩ := exists_symByte b
    rw [decode_acrSym] at h
    obtain ⟨rfl, rfl, rfl⟩ | ⟨hr, rfl, rfl⟩ | ⟨hs, h⟩ := runSymbol_ok h
    · exact ⟨rfl, fun _ => rfl⟩
    · exact ⟨bne_iff_ne.2 hr, fun _ => rfl⟩
    · split_ifs at h with hone <;> cases h
      · exact ⟨rfl, fun _ => by rw [hone]; rfl⟩
      · exact ⟨Bool.and_eq_true_iff.2 ⟨bne_iff_ne.2 hs, bne_iff_ne.2 hone⟩, fun _ => rfl⟩
  | dcrBit b =>
    have hbit : ∀ b : BitVec 1, (if decide (b = 1) then 1 else 0) = b := by decide
    cases h
    exact ⟨rfl, fun _ => congrArg Enc.dcrBit (hbit b)⟩
  | mag n v =>
    rw [decode_mag] at h
    split_ifs at h with hn hv
    cases h
    exact ⟨Bool.and_eq_true_iff.2 ⟨bne_iff_ne.2 hn, decide_eq_true hv⟩, fun _ => rfl⟩
  | unit sel =>
    simp only [decode, decodeSelector] at h
    split at h
    · rename_i hrow
      cases h
      obtain ⟨hwf, hword⟩ := encode_of_mem_selectors _ (lookupRow_mem hrow)
      exact ⟨hwf, fun _ => hword⟩
    · cases h
  | ctrl w =>
    cases h
    exact ⟨decodeCtrl_wf w, fun hctrl => absurd rfl (hctrl w)⟩

/-- Settles O3: the decoder is evaluated on each word. -/
theorem decodedWords : Obligations.DecodedWords := by
  unfold Obligations.DecodedWords
  decide

/-! ### Magnitude fields (R115) -/

/-- The value of a field of `k + 1` bits, by its top bit (R115). -/
theorem magnitude_succ (k v : Nat) :
    magnitude (k + 1) v = if 2 ^ k ≤ v then (v : Int) else (v : Int) - (2 * (2 ^ k : Nat) - 1) := by
  have hpos : 1 ≤ 2 ^ (k + 1) := Nat.one_le_two_pow
  rw [magnitude, if_neg k.succ_ne_zero, Nat.add_sub_cancel, Nat.cast_sub hpos, pow_succ', Nat.cast_mul]
  rfl

theorem magnitude_natAbs {k v : Nat} (hv : v < 2 ^ (k + 1)) :
    2 ^ k ≤ (magnitude (k + 1) v).natAbs ∧ (magnitude (k + 1) v).natAbs < 2 ^ (k + 1) := by
  rw [pow_succ'] at hv ⊢
  rw [magnitude_succ]
  split_ifs <;> omega

/-- The fields with the top bit set have the positive values, in order, and the others the negative ones (R115). -/
theorem magnitude_inj {k v w : Nat} (hv : v < 2 ^ (k + 1)) (hw : w < 2 ^ (k + 1))
    (h : magnitude (k + 1) v = magnitude (k + 1) w) : v = w := by
  rw [pow_succ'] at hv hw
  rw [magnitude_succ, magnitude_succ] at h
  split_ifs at h <;> omega

/-- MAG writes the value of its field to the result register (R115). -/
theorem exec_mag (n : BitVec 4) (v : BitVec 15) (s : State) :
    exec (.mag n v) s =
      .next { s.unheld with unit := { s.unit with result := BitVec.ofInt 32 (magnitude n.toNat v.toNat) } } := rfl

/-- Settles O37: a field of at least one bit has `k + 1` bits, and its top bit says how its value is read. -/
theorem magnitudeValues : Obligations.MagnitudeValues := by
  refine ⟨fun n v s hn _ => ?_, fun n v hn hv => ?_, fun n v w hn hv hw h => ?_⟩
  · obtain ⟨k, hk⟩ : ∃ k, n.toNat = k + 1 := Nat.exists_eq_succ_of_ne_zero (BitVec.toNat_ne.1 hn)
    rw [exec_mag, hk, magnitude_succ, Nat.add_sub_cancel, pow_succ', Nat.cast_pow]
    rfl
  · obtain ⟨k, rfl⟩ := Nat.exists_eq_add_of_le' hn
    exact magnitude_natAbs hv
  · obtain ⟨k, rfl⟩ := Nat.exists_eq_add_of_le' hn
    exact magnitude_inj hv hw h

/-! ### Markers inside a scan -/

/-- The encoder writes every instruction at the level of its row. -/
theorem levelOf_encode (i : Instr) : Laws.F.Statement i := by
  cases i <;> rfl

/-- In SCAN a marker is latched in place of its own rule (R180). -/
theorem atMarker_scan {s : State} (hs : s.phase = .scan) (code : Byte) (header frame : Seq Unit) :
    atMarker code header frame s = .ok () (s.setBits (s.bits.latch code)) := by
  rw [atMarker_apply, hs]

/-- SOI is no exception: only in phase SOI is it taken (R213). -/
theorem soiMarker_scan {s : State} (hs : s.phase = .scan) : soiMarker s = .ok () (s.setBits (s.bits.latch 0xD8)) := by
  have hsoi : s.phase ≠ .soi := by rw [hs]; decide
  rw [soiMarker, look_bind, if_neg hsoi]
  exact atMarker_scan hs _ _ _

/-- RSTm in SCAN, whatever its index: dropped after the last MCU, a restart when it is due, else latched (R247, R313, R180). -/
theorem rstMarker_scan {s : State} (hs : s.phase = .scan) (m : BitVec 3) :
    rstMarker m s = .ok () (
      if s.scanDone = true then s.setBits { s.bits with marker := 0xFF }
      else if s.todo.toInt ≤ 0 then s.resetEntropy
      else s.setBits (s.bits.latch (rstCode m))) := by
  rw [rstMarker, look_bind, if_pos hs, rstInScan, look_bind, look_bind]
  simp only [decide_eq_true_eq]
  split_ifs <;> rfl

theorem exec_rst_scan {s : State} (hs : s.phase = .scan) (m : BitVec 3) :
    exec (.rst m) s = .next (
      if s.scanDone = true then s.unheld.setBits { s.bits with marker := 0xFF }
      else if s.todo.toInt ≤ 0 then s.unheld.resetEntropy
      else s.unheld.setBits (s.bits.latch (rstCode m))) :=
  runOp_ok (rstMarker_scan (s := s.unheld) hs m)

/-- FF 00 in SCAN, with room for a byte (R112, R180). -/
theorem exec_stuff_scan {s : State} (hs : s.phase = .scan) (hroom : s.bits.count ≤ 24) :
    exec .stuff s = .next { s.unheld with bits := s.bits.append 0xFF } := by
  refine runOp_ok ?_
  have hfull : decide (24 < s.unheld.bits.count) = false := decide_eq_false (Int.not_lt.2 hroom)
  rw [stuffMarker, look_bind, State.unheld_phase, if_pos hs, look_bind, hfull]
  rfl

/-- Every marker but RSTm and STUFF is latched in SCAN, with the code of its word (R180). -/
theorem exec_marker_scan {i : Instr} {w : BitVec 16} {s : State} (hs : s.phase = .scan) (hw : encode i = .marker w)
    (hstuff : i ≠ .stuff) (hrst : ∀ m, i ≠ .rst m) :
    exec i s = .next { s.unheld with bits := s.bits.latch (w.truncate 8) } := by
  have hlevel : Laws.F.levelOf i = .marker := by rw [← levelOf_encode i, hw]; rfl
  cases i with
  | stuff => exact absurd rfl hstuff
  | rst m => exact absurd rfl (hrst m)
  | soi =>
    cases hw
    exact runOp_ok (soiMarker_scan (s := s.unheld) hs)
  | appn n =>
    cases hw
    rw [markerWord_code]
    exact runOp_ok (atMarker_scan (s := s.unheld) hs _ _ _)
  | res code =>
    cases hw
    rw [markerWord_code]
    exact runOp_ok (atMarker_scan (s := s.unheld) hs _ _ _)
  | eoi | sof0 | sof1 | sof2 | dht | dqt | sos | dri | dnl | app0 | app14 | com | sof3 | sof5 | sof6 | sof7 | sof9 | sof10
  | sof11 | dac | sof13 | sof14 | sof15 | dhp | exp =>
    cases hw
    exact runOp_ok (atMarker_scan (s := s.unheld) hs _ _ _)
  | _ => cases hlevel

/-- Settles O23: RSTm by what is due, STUFF, and every other marker. -/
theorem markersInsideScan : Obligations.MarkersInsideScan := by
  refine ⟨fun s m hs hdone => ?_, fun s m hs hdone hdue => ?_, fun s hs => exec_stuff_scan hs, fun s i w hs hw hstuff hrst => ?_⟩
  · rw [exec_rst_scan hs, if_pos hdone]
    rfl
  · rw [exec_rst_scan hs, hdone, if_neg Bool.false_ne_true, if_pos hdue, State.resetEntropy, State.todoStart, ite_not]
    rfl
  · by_cases h : ∃ m, i = .rst m
    · obtain ⟨hdone, hdue⟩ := hrst h
      obtain ⟨m, rfl⟩ := h
      cases hw
      rw [exec_rst_scan hs, hdone, if_neg Bool.false_ne_true, if_neg (Int.not_le.2 hdue), markerWord_code]
      rfl
    · exact exec_marker_scan hs hw hstuff (not_exists.1 h)

end Sys2Proof.Machine

/-! PROOFS of the statements about the Huffman tables (40_huffman.md): the arrays of a table, the arithmetic of the canonical code,
the table that HUF_BUILD leaves in closed form, then its fast table, the decode of its codes, and the fast-AC entries. -/

namespace Sys2Proof.Machine

/-! ### Fixed tables -/

section
variable {α : Type} {n : Nat} (v : Vector α n)

@[simp] theorem at?_of_lt {i : Nat} (h : i < n) (d : α) : at? v i d = v[i] := dif_pos h

theorem at?_put (i j : Nat) (x d : α) : at? (put v i x) j d = if i = j ∧ i < n then x else at? v j d := by
  unfold at? put
  by_cases hi : i < n <;> by_cases hj : j < n <;> simp [hi, hj, Vector.getElem_set]
  omega

theorem at?_put_same {i : Nat} (h : i < n) (x d : α) : at? (put v i x) i d = x := by
  rw [at?_put, if_pos ⟨rfl, h⟩]

theorem at?_put_ne {i j : Nat} (h : i ≠ j) (x d : α) : at? (put v i x) j d = at? v j d := by
  rw [at?_put, if_neg fun hij => h hij.1]

/-- A list written from `k` on leaves what stands before `k`. -/
theorem at?_putFrom_below {k j : Nat} (l : List α) (h : j < k) (d : α) : at? (putFrom v k l) j d = at? v j d := by
  induction l generalizing v k with
  | nil => rfl
  | cons x l ih => rw [putFrom, ih _ (by omega), at?_put_ne v (by omega)]

/-- A list written from `k` on stands there. -/
theorem at?_putFrom {k j : Nat} {l : List α} {x : α} (h : l[j]? = some x) (hfit : k + l.length ≤ n) (d : α) :
    at? (putFrom v k l) (k + j) d = x := by
  induction l generalizing v k j with
  | nil => cases h
  | cons y l ih =>
    rw [List.length_cons] at hfit
    cases j with
    | zero =>
      cases h
      exact (at?_putFrom_below _ l (Nat.lt_succ_self k) d).trans (at?_put_same v (by omega : k < n) x d)
    | succ j => rw [putFrom, Nat.add_comm j 1, ← Nat.add_assoc, ih _ h (by omega)]

end

/-! ### The symbols in order of length (R150) -/

theorem countAt_lt (counts : Vector Byte 16) (l : Nat) : countAt counts l < 256 := BitVec.isLt _

theorem firstIndex_mono (counts : Vector Byte 16) : Monotone (firstIndex counts) :=
  monotone_nat_of_le_succ fun _ => Nat.le_add_right _ _

/-- The symbols of one length stand before those of the longer lengths. -/
theorem firstIndex_add_lt (counts : Vector Byte 16) {l m j : Nat} (hl : l < m) (hj : j < countAt counts l) :
    firstIndex counts l + j < firstIndex counts m :=
  Nat.lt_of_lt_of_le (Nat.add_lt_add_left hj _) (firstIndex_mono counts (Nat.succ_le_of_lt hl))

/-- Every symbol has a length and a place among the symbols of that length. -/
theorem exists_length_of_lt_firstIndex {counts : Vector Byte 16} {i m : Nat} (h : i < firstIndex counts m) :
    ∃ l < m, ∃ j < countAt counts l, i = firstIndex counts l + j := by
  induction m with
  | zero => exact absurd h (Nat.not_lt_zero i)
  | succ m ih =>
    by_cases hi : i < firstIndex counts m
    · obtain ⟨l, hl, hj⟩ := ih hi
      exact ⟨l, Nat.lt_succ_of_lt hl, hj⟩
    · rw [firstIndex] at h
      exact ⟨m, Nat.lt_succ_self m, i - firstIndex counts m, by omega, by omega⟩

theorem firstIndex_eq_sum (counts : Vector Byte 16) (m : Nat) :
    firstIndex counts m = ((List.range m).map (countAt counts)).sum := by
  induction m with
  | zero => rfl
  | succ m ih => simp [firstIndex, ih, List.range_succ]

/-- The symbols of all 16 lengths are all symbols. -/
theorem firstIndex_sixteen (counts : Vector Byte 16) : firstIndex counts 16 = countSum counts := by
  have hlist : counts.toList.map BitVec.toNat = (List.range 16).map (countAt counts) := by
    refine List.ext_getElem (by simp) fun i hi _ => ?_
    have hlt : i < 16 := by simpa using hi
    simp [countAt, hlt]
  rw [firstIndex_eq_sum, countSum, hlist]

theorem exists_length_of_lt_countSum {counts : Vector Byte 16} {i : Nat} (h : i < countSum counts) :
    ∃ l < 16, ∃ j < countAt counts l, i = firstIndex counts l + j :=
  exists_length_of_lt_firstIndex (firstIndex_sixteen counts ▸ h)

/-- The size list over the first `m` lengths. -/
def sizesUpTo (counts : Vector Byte 16) (m : Nat) : List Nat :=
  (List.range m).flatMap fun l => List.replicate (countAt counts l) (l + 1)

theorem sizesUpTo_succ (counts : Vector Byte 16) (m : Nat) :
    sizesUpTo counts (m + 1) = sizesUpTo counts m ++ List.replicate (countAt counts m) (m + 1) := by
  simp [sizesUpTo, List.range_succ]

theorem length_sizesUpTo (counts : Vector Byte 16) (m : Nat) : (sizesUpTo counts m).length = firstIndex counts m := by
  induction m with
  | zero => rfl
  | succ m ih => rw [sizesUpTo_succ, List.length_append, ih, List.length_replicate, firstIndex]

theorem getElem?_sizesUpTo {counts : Vector Byte 16} {l m j : Nat} (hl : l < m) (hj : j < countAt counts l) :
    (sizesUpTo counts m)[firstIndex counts l + j]? = some (l + 1) := by
  induction m with
  | zero => exact absurd hl (Nat.not_lt_zero l)
  | succ m ih =>
    rw [sizesUpTo_succ]
    rcases Nat.lt_succ_iff_lt_or_eq.1 hl with hlt | rfl
    · rw [List.getElem?_append_left (by rw [length_sizesUpTo]; exact firstIndex_add_lt counts hlt hj), ih hlt]
    · rw [List.getElem?_append_right (by rw [length_sizesUpTo]; omega), length_sizesUpTo, Nat.add_sub_cancel_left,
        List.getElem?_replicate_of_lt hj]

/-- The size array of the counts: the lengths in order, then 0 (R150). -/
def HuffTable.Sized (T : HuffTable) (counts : Vector Byte 16) : Prop :=
  (∀ l < 16, ∀ j < countAt counts l, (at? T.size (firstIndex counts l + j) 0).toNat = l + 1) ∧
    at? T.size (countSum counts) 0 = 0

theorem sized_buildSizes {counts : Vector Byte 16} (h : countSum counts ≤ 256) (T : HuffTable) :
    (buildSizes counts T).Sized counts := by
  have hlen : (sizesUpTo counts 16).length = countSum counts := by rw [length_sizesUpTo, firstIndex_sixteen]
  have hget {k : Nat} {x : BitVec 5} (hx : ((sizesUpTo counts 16).map (BitVec.ofNat 5) ++ [0])[k]? = some x) :
      at? (buildSizes counts T).size k 0 = x := by
    have hput := at?_putFrom T.size (k := 0) hx (by simp [hlen]; omega) 0
    rwa [Nat.zero_add] at hput
  refine ⟨fun l hl j hj => ?_, hget ?_⟩
  · have hx := getElem?_sizesUpTo hl hj
    have hk : firstIndex counts l + j < countSum counts := firstIndex_sixteen counts ▸ firstIndex_add_lt counts hl hj
    have hentry : ((sizesUpTo counts 16).map (BitVec.ofNat 5) ++ [0])[firstIndex counts l + j]? = some (BitVec.ofNat 5 (l + 1)) := by
      rw [List.getElem?_append_left (by simpa [hlen] using hk), List.getElem?_map, hx]
      rfl
    rw [hget hentry, BitVec.toNat_ofNat, Nat.mod_eq_of_lt (by omega)]
  · rw [List.getElem?_append_right (by simp [hlen])]
    simp [hlen]

/-- The run of a length ends where the symbols of the longer lengths begin (R151). -/
theorem HuffTable.Sized.size_ne {T : HuffTable} {counts : Vector Byte 16} (h : T.Sized counts) {l : Nat} (hl : l < 16) :
    (at? T.size (firstIndex counts (l + 1)) 0).toNat ≠ l + 1 := by
  rcases Nat.lt_or_ge (firstIndex counts (l + 1)) (countSum counts) with hlt | hge
  · obtain ⟨q, hq, j, hj, hi⟩ := exists_length_of_lt_countSum hlt
    rw [hi, h.1 q hq j hj]
    intro hql
    have hbefore := firstIndex_add_lt counts (show q < l + 1 by omega) hj
    omega
  · have hle := firstIndex_mono counts (Nat.succ_le_of_lt hl)
    rw [firstIndex_sixteen] at hle
    rw [Nat.le_antisymm hle hge, h.2]
    exact (Nat.succ_ne_zero l).symm

/-! ### The canonical code (R151) -/

/-- A length has more codes than room (R151). -/
def Overflows (counts : Vector Byte 16) (l : Nat) : Prop :=
  countAt counts l ≠ 0 ∧ 2 ^ (l + 1) < firstCode counts l + countAt counts l

theorem validCounts_iff {counts : Vector Byte 16} (h : countSum counts ≤ 256) :
    ValidCounts counts ↔ ∀ l < 16, ¬Overflows counts l := by
  simp only [ValidCounts, Overflows, h, true_and, not_and, Nat.not_lt]

section
variable {counts : Vector Byte 16}

/-- The codes of every length, those that have none included, fit the length. -/
theorem ValidCounts.lastCode_le (h : ValidCounts counts) {l : Nat} (hl : l < 16) :
    firstCode counts l + countAt counts l ≤ 2 ^ (l + 1) := by
  induction l with
  | zero =>
    by_cases hc : countAt counts 0 = 0
    · simp [firstCode, hc]
    · exact h.2 0 hl hc
  | succ l ih =>
    by_cases hc : countAt counts (l + 1) = 0
    · have hprev := ih (by omega)
      rw [hc, firstCode, pow_succ]
      omega
    · exact h.2 (l + 1) hl hc

theorem ValidCounts.lastCode_le_sixteen (h : ValidCounts counts) {l : Nat} (hl : l < 16) :
    (firstCode counts l + countAt counts l) * 2 ^ (15 - l) ≤ 2 ^ 16 := by
  calc (firstCode counts l + countAt counts l) * 2 ^ (15 - l) ≤ 2 ^ (l + 1) * 2 ^ (15 - l) :=
        Nat.mul_le_mul_right _ (h.lastCode_le hl)
    _ = 2 ^ 16 := by rw [← Nat.pow_add, show l + 1 + (15 - l) = 16 by omega]

theorem ValidCounts.code_lt (h : ValidCounts counts) {l j : Nat} (hl : l < 16) (hj : j < countAt counts l) :
    firstCode counts l + j < 2 ^ 16 := by
  have hle := h.lastCode_le hl
  have hpow : 2 ^ (l + 1) ≤ 2 ^ 16 := Nat.pow_le_pow_right (by decide) (by omega)
  omega

theorem firstIndex_le_firstCode (counts : Vector Byte 16) (l : Nat) : firstIndex counts l ≤ firstCode counts l := by
  induction l with
  | zero => exact Nat.le_refl 0
  | succ l ih =>
    rw [firstIndex, firstCode]
    omega

/-- The codes of a longer length begin past the extensions of all codes of a shorter one: no code begins another (R157). -/
theorem lastCode_le_firstCode (counts : Vector Byte 16) {l m : Nat} (h : l < m) :
    (firstCode counts l + countAt counts l) * 2 ^ (m - l) ≤ firstCode counts m := by
  obtain ⟨d, rfl⟩ := Nat.exists_eq_add_of_lt h
  rw [show l + d + 1 - l = d + 1 by omega]
  clear h
  induction d with
  | zero => simp [firstCode, Nat.mul_comm]
  | succ d ih =>
    rw [← Nat.add_assoc, firstCode, pow_succ, ← Nat.mul_assoc]
    omega

/-- A bit string at or above the first code of a longer length is above every code of a shorter one. -/
theorem lastCode_le_div {l m x : Nat} (h : l < m) (hx : firstCode counts m ≤ x) :
    firstCode counts l + countAt counts l ≤ x / 2 ^ (m - l) :=
  (Nat.le_div_iff_mul_le (Nat.two_pow_pos _)).2 (Nat.le_trans (lastCode_le_firstCode counts h) hx)

/-- The 256th symbol has a code of 9 bits or more, unless all 256 have 8 bits (R153). -/
theorem ValidCounts.eight_le_length (h : ValidCounts counts) (h7 : countAt counts 7 ≠ 256) {l j : Nat} (hl : l < 16)
    (hj : j < countAt counts l) (hi : firstIndex counts l + j = 255) : 8 ≤ l := by
  have hroom := h.lastCode_le hl
  have hcode := firstIndex_le_firstCode counts l
  by_contra hlt
  have hpow : 2 ^ (l + 1) ≤ 2 ^ 8 := Nat.pow_le_pow_right (by decide) (by omega)
  have hlt7 : l ≠ 7 := by
    rintro rfl
    have hprev := firstIndex_le_firstCode counts 6
    simp only [firstIndex, firstCode] at *
    omega
  have hpow7 : 2 ^ (l + 1) ≤ 2 ^ 7 := Nat.pow_le_pow_right (by decide) (by omega)
  omega

end

/-! ### HUF_BUILD step 2 in closed form (R151, R152) -/

/-- The codes of one length in order. -/
def codesOf (counts : Vector Byte 16) (l : Nat) : List (BitVec 16) :=
  (List.range (countAt counts l)).map fun j => BitVec.ofNat 16 (firstCode counts l + j)

/-- The table with `delta` and the codes of length `l + 1` written, before the check of the length. -/
def HuffTable.withCodes (counts : Vector Byte 16) (l : Nat) (T : HuffTable) : HuffTable :=
  { T with
    delta := put T.delta l (BitVec.ofInt 32 ((firstIndex counts l : Int) - firstCode counts l))
    code := putFrom T.code (firstIndex counts l) (codesOf counts l) }

/-- The table after the first lengths of HUF_BUILD step 2. -/
def canonTable (counts : Vector Byte 16) (T : HuffTable) : Nat → HuffTable
  | 0 => T
  | l + 1 =>
    let P := (canonTable counts T l).withCodes counts l
    { P with maxcode := put P.maxcode l (BitVec.ofNat 32 ((firstCode counts l + countAt counts l) <<< (15 - l))) }

/-- HUF_BUILD step 2 before length `l + 1`. -/
def canonAt (counts : Vector Byte 16) (T : HuffTable) (l : Nat) : Canon :=
  { T := canonTable counts T l, k := firstIndex counts l, code := firstCode counts l }

/-- The loop assigns the run of symbols of its length, and stops at the first symbol of another. -/
theorem assignCodes_run {len m n : Nat} {c : Canon} (hrun : ∀ j < m, (at? c.T.size (c.k + j) 0).toNat = len)
    (hstop : (at? c.T.size (c.k + m) 0).toNat ≠ len) (hmn : m ≤ n) :
    assignCodes len n c =
      { T := { c.T with code := putFrom c.T.code c.k ((List.range m).map fun j => BitVec.ofNat 16 (c.code + j)) }
        k := c.k + m
        code := c.code + m } := by
  induction m generalizing n c with
  | zero =>
    cases n with
    | zero => rfl
    | succ n => rw [assignCodes, if_neg (by simpa using hstop)]; rfl
  | succ m ih =>
    obtain ⟨n, rfl⟩ := Nat.exists_eq_add_of_le' (Nat.le_trans (Nat.succ_pos m) hmn)
    rw [assignCodes, if_pos (by simpa using hrun 0 (Nat.succ_pos m)), ih]
    · simp [List.range_succ_eq_map, putFrom, Function.comp_def, Nat.add_assoc, Nat.add_comm 1]
    · intro j hj
      simpa [Nat.add_assoc, Nat.add_comm 1] using hrun (j + 1) (by omega)
    · simpa [Nat.add_assoc, Nat.add_comm 1] using hstop
    · omega

section
variable (counts : Vector Byte 16) (T : HuffTable)

theorem canonTable_size (l : Nat) : (canonTable counts T l).size = T.size := by
  induction l with
  | zero => rfl
  | succ l ih => exact ih

theorem canonTable_values (l : Nat) : (canonTable counts T l).values = T.values := by
  induction l with
  | zero => rfl
  | succ l ih => exact ih

theorem canonTable_loaded (l : Nat) : (canonTable counts T l).loaded = T.loaded := by
  induction l with
  | zero => rfl
  | succ l ih => exact ih

end

section
variable {counts : Vector Byte 16} {T : HuffTable}

theorem canonCodes_canonAt (h : T.Sized counts) {l : Nat} (hl : l < 16) :
    canonCodes (l + 1) (canonAt counts T l) =
      { T := (canonTable counts T l).withCodes counts l
        k := firstIndex counts (l + 1)
        code := firstCode counts l + countAt counts l } := by
  rw [canonCodes, assignCodes_run (m := countAt counts l)]
  · rfl
  · intro j hj
    simpa only [canonAt, canonTable_size] using h.1 l hl j hj
  · simpa only [canonAt, canonTable_size, firstIndex] using h.size_ne hl
  · exact Nat.le_of_lt (Nat.lt_succ_of_lt (countAt_lt counts l))

/-- One length of HUF_BUILD step 2: it ends the build where it overflows, else the next length follows. -/
theorem canonLoop_canonAt (h : T.Sized counts) {l : Nat} (hl : l < 16) (rest : List Nat) :
    (Overflows counts l →
      canonLoop ((l + 1) :: rest) (canonAt counts T l) = ((canonTable counts T l).withCodes counts l, true)) ∧
    (¬Overflows counts l →
      canonLoop ((l + 1) :: rest) (canonAt counts T l) = canonLoop rest (canonAt counts T (l + 1))) := by
  have hflag : codesOverflow (l + 1) (canonAt counts T l) (canonCodes (l + 1) (canonAt counts T l)) = true ↔
      Overflows counts l := by
    rw [canonCodes_canonAt h hl]
    rw [codesOverflow, Bool.and_eq_true, decide_eq_true_eq, decide_eq_true_eq]
    simp only [canonAt, firstIndex, Overflows]
    omega
  have hnext : canonNext (l + 1) (canonCodes (l + 1) (canonAt counts T l)) = canonAt counts T (l + 1) := by
    rw [canonCodes_canonAt h hl]
    simp only [canonNext, canonAt, canonTable, firstCode, Nat.add_sub_cancel, Nat.shiftLeft_eq, Nat.mul_comm, pow_one,
      show 16 - (l + 1) = 15 - l by omega]
  constructor
  · intro ho
    rw [canonLoop, if_pos (hflag.2 ho), canonCodes_canonAt h hl]
  · intro ho
    rw [canonLoop, if_neg (mt hflag.1 ho), hnext]

theorem canonLoop_of_fits (h : T.Sized counts) {l m : Nat} (hm : l + m ≤ 16)
    (hfit : ∀ q, l ≤ q → q < l + m → ¬Overflows counts q) :
    canonLoop (List.range' (l + 1) m) (canonAt counts T l) = (canonTable counts T (l + m), false) := by
  induction m generalizing l with
  | zero => rfl
  | succ m ih =>
    rw [List.range'_succ, (canonLoop_canonAt h (by omega) _).2 (hfit l (by omega) (by omega)), ih (by omega)
      (fun q hq hqm => hfit q (by omega) (by omega))]
    rw [show l + 1 + m = l + (m + 1) by omega]

theorem canonLoop_of_overflow (h : T.Sized counts) {l m q : Nat} (hm : l + m ≤ 16) (hlq : l ≤ q) (hqm : q < l + m)
    (hq : Overflows counts q) :
    ∃ p, canonLoop (List.range' (l + 1) m) (canonAt counts T l) = ((canonTable counts T p).withCodes counts p, true) := by
  induction m generalizing l with
  | zero => omega
  | succ m ih =>
    rw [List.range'_succ]
    by_cases ho : Overflows counts l
    · exact ⟨l, (canonLoop_canonAt h (by omega) _).1 ho⟩
    · have hne : l ≠ q := fun e => ho (e ▸ hq)
      rw [(canonLoop_canonAt h (by omega) _).2 ho]
      exact ih (by omega) (by omega) (by omega)

theorem buildCodes_of_valid (h : T.Sized counts) (hv : ValidCounts counts) :
    buildCodes T = (canonTable counts T 16, false) :=
  canonLoop_of_fits h (l := 0) (m := 16) (by omega) fun q _ hq => (validCounts_iff hv.1).1 hv q (by omega)

/-- Where a length overflows the build stops with the values and the loaded bit the table had (R151, R156). -/
theorem buildCodes_of_not_valid (h : T.Sized counts) (hsum : countSum counts ≤ 256) (hv : ¬ValidCounts counts) :
    (buildCodes T).2 = true ∧ (buildCodes T).1.loaded = T.loaded ∧ (buildCodes T).1.values = T.values := by
  rw [validCounts_iff hsum] at hv
  push Not at hv
  obtain ⟨q, hq, ho⟩ := hv
  obtain ⟨p, hp⟩ := canonLoop_of_overflow h (l := 0) (m := 16) (by omega) (Nat.zero_le q) (by omega) ho
  have hb : buildCodes T = ((canonTable counts T p).withCodes counts p, true) := hp
  rw [hb]
  exact ⟨rfl, canonTable_loaded counts T p, canonTable_values counts T p⟩

/-! ### The arrays of the built table -/

theorem canonTable_delta {l q : Nat} (hl : l ≤ 16) (hq : q < l) :
    at? (canonTable counts T l).delta q 0 = BitVec.ofInt 32 ((firstIndex counts q : Int) - firstCode counts q) := by
  induction l with
  | zero => omega
  | succ l ih =>
    rcases Nat.lt_succ_iff_lt_or_eq.1 hq with hlt | rfl
    · exact (at?_put_ne _ (by omega) _ _).trans (ih (by omega) hlt)
    · exact at?_put_same _ (by omega) _ _

theorem canonTable_maxcode {l q : Nat} (hl : l ≤ 16) (hq : q < l) :
    at? (canonTable counts T l).maxcode q 0 =
      BitVec.ofNat 32 ((firstCode counts q + countAt counts q) <<< (15 - q)) := by
  induction l with
  | zero => omega
  | succ l ih =>
    rcases Nat.lt_succ_iff_lt_or_eq.1 hq with hlt | rfl
    · exact (at?_put_ne _ (by omega) _ _).trans (ih (by omega) hlt)
    · exact at?_put_same _ (by omega) _ _

theorem canonTable_code (hsum : countSum counts ≤ 256) {l q j : Nat} (hl : l ≤ 16) (hq : q < l) (hj : j < countAt counts q) :
    at? (canonTable counts T l).code (firstIndex counts q + j) 0 = BitVec.ofNat 16 (firstCode counts q + j) := by
  induction l with
  | zero => omega
  | succ l ih =>
    rcases Nat.lt_succ_iff_lt_or_eq.1 hq with hlt | rfl
    · exact (at?_putFrom_below _ _ (firstIndex_add_lt counts hlt hj) _).trans (ih (by omega) hlt)
    · have hend := firstIndex_mono counts hl
      rw [firstIndex_sixteen, firstIndex] at hend
      exact at?_putFrom _ (by simp [codesOf, hj]) (by simp [codesOf]; omega) _

end

/-! ### HUF_BUILD (R156) -/

@[simp] theorem State.huffAt_setHuff (s : State) (tc : Fin 2) (th : Fin 4) (T : HuffTable) :
    (s.setHuff tc th T).huffAt tc th = T := by
  simp [State.huffAt, Vector.get_eq_getElem]

@[simp] theorem State.setHuff_setHuff (s : State) (tc : Fin 2) (th : Fin 4) (T U : HuffTable) :
    (s.setHuff tc th T).setHuff tc th U = s.setHuff tc th U := by
  simp [State.setHuff, Vector.get_eq_getElem]

/-- HUF_BUILD steps 3 and 4 and its end, on the table that step 2 leaves (R152, R153, R156). -/
def HuffTable.finish (n : Nat) (T : HuffTable) : HuffTable :=
  { buildFast n (buildSentinel T) with nsym := BitVec.ofNat 9 n, loaded := true }

section
variable (n : Nat) (T : HuffTable)

@[simp] theorem HuffTable.finish_size : (T.finish n).size = T.size := rfl
@[simp] theorem HuffTable.finish_code : (T.finish n).code = T.code := rfl
@[simp] theorem HuffTable.finish_values : (T.finish n).values = T.values := rfl
@[simp] theorem HuffTable.finish_delta : (T.finish n).delta = T.delta := rfl
@[simp] theorem HuffTable.finish_maxcode : (T.finish n).maxcode = put T.maxcode 16 0xFFFFFFFF := rfl
@[simp] theorem HuffTable.finish_fast :
    (T.finish n).fast = Vector.ofFn fun c : Fin 512 => BitVec.ofNat 8 (fastSlot (buildSentinel T) c.val n) := rfl
@[simp] theorem HuffTable.finish_nsym : (T.finish n).nsym = BitVec.ofNat 9 n := rfl
@[simp] theorem HuffTable.finish_loaded : (T.finish n).loaded = true := rfl

end

/-- The table HUF_BUILD leaves for counts that fit. -/
def builtTable (counts : Vector Byte 16) (T : HuffTable) : HuffTable :=
  (canonTable counts (buildSizes counts T) 16).finish (countSum counts)

theorem exec_hufBuild_valid {s : State} (h : ValidCounts s.unit.counts) :
    exec .hufBuild s = .next (s.unheld.setHuff (idx1 s.unit.tc) (idx2 s.unit.th)
      (builtTable s.unit.counts (s.huffAt (idx1 s.unit.tc) (idx2 s.unit.th)))) := by
  refine runOp_ok ?_
  rw [hufBuild, look_bind, if_neg (Nat.not_lt.2 h.1), buildCodes_of_valid (sized_buildSizes h.1 _) h, upd_bind, check_false,
    seq_bind_ok (seq_pure () _), upd_apply, State.setHuff_setHuff, builtTable]
  rfl

/-- What holds of the state after HUF_BUILD on counts that fit. -/
theorem hufBuild_next {s t : State} (h : ValidCounts s.unit.counts) (ht : exec .hufBuild s = .next t) :
    t.unheld = t ∧ t.unit = s.unit ∧ t.huffAt (idx1 s.unit.tc) (idx2 s.unit.th) =
      builtTable s.unit.counts (s.huffAt (idx1 s.unit.tc) (idx2 s.unit.th)) := by
  obtain rfl := Host.Outcome.next.inj ((exec_hufBuild_valid h).symm.trans ht)
  exact ⟨rfl, rfl, State.huffAt_setHuff ..⟩

theorem exec_hufBuild_not_valid {s : State} (hsum : countSum s.unit.counts ≤ 256) (h : ¬ValidCounts s.unit.counts) :
    exec .hufBuild s = .next ((s.unheld.setHuff (idx1 s.unit.tc) (idx2 s.unit.th)
      (buildCodes (buildSizes s.unit.counts (s.huffAt (idx1 s.unit.tc) (idx2 s.unit.th)))).1).takeError .badCodeLengths) := by
  refine runOp_raise ?_
  obtain ⟨hraise, -⟩ := buildCodes_of_not_valid
    (sized_buildSizes hsum (s.unheld.huffAt (idx1 s.unit.tc) (idx2 s.unit.th))) hsum h
  rw [hufBuild, look_bind, if_neg (Nat.not_lt.2 hsum), upd_bind, hraise, check_true, raise_bind]
  rfl

/-- Settles O42: the values and the loaded bit are no fields that the codes are written to. -/
theorem codeLengthsRefused : Obligations.CodeLengthsRefused := by
  intro s hsum h
  obtain ⟨-, hloaded, hvalues⟩ := buildCodes_of_not_valid
    (sized_buildSizes hsum (s.huffAt (idx1 s.unit.tc) (idx2 s.unit.th))) hsum h
  exact ⟨_, exec_hufBuild_not_valid hsum h, hloaded, hvalues⟩

section
variable {counts : Vector Byte 16} {T : HuffTable}

theorem sized_builtTable (h : ValidCounts counts) : (builtTable counts T).Sized counts := by
  rw [HuffTable.Sized, builtTable, HuffTable.finish_size, canonTable_size]
  exact sized_buildSizes h.1 T

theorem canonical_builtTable (h : ValidCounts counts) : (builtTable counts T).Canonical counts := by
  refine fun l hl j hj => ⟨(sized_builtTable h).1 l hl j hj, ?_⟩
  rw [builtTable, HuffTable.finish_code, canonTable_code h.1 (Nat.le_refl 16) hl hj, BitVec.toNat_ofNat,
    Nat.mod_eq_of_lt (h.code_lt hl hj)]

theorem delta_builtTable (h : ValidCounts counts) {l : Nat} (hl : l < 16) :
    (at? (builtTable counts T).delta l 0).toInt = (firstIndex counts l : Int) - firstCode counts l := by
  have hindex := firstIndex_le_firstCode counts l
  have hcode := h.lastCode_le hl
  have hpow : 2 ^ (l + 1) ≤ 2 ^ 16 := Nat.pow_le_pow_right (by decide) (by omega)
  rw [builtTable, HuffTable.finish_delta, canonTable_delta (Nat.le_refl 16) hl, BitVec.toInt_ofInt, Int.bmod_eq_of_le] <;>
    omega

theorem maxcode_builtTable (h : ValidCounts counts) {l : Nat} (hl : l < 16) :
    (at? (builtTable counts T).maxcode l 0).toNat = (firstCode counts l + countAt counts l) * 2 ^ (15 - l) := by
  have hroom := h.lastCode_le_sixteen hl
  rw [builtTable, HuffTable.finish_maxcode, at?_put_ne _ (by omega), canonTable_maxcode (Nat.le_refl 16) hl,
    BitVec.toNat_ofNat, Nat.shiftLeft_eq, Nat.mod_eq_of_lt (by omega)]

theorem sentinel_builtTable : at? (builtTable counts T).maxcode 16 0 = 0xFFFFFFFF := by
  rw [builtTable, HuffTable.finish_maxcode, at?_put_same _ (by decide)]

theorem nsym_builtTable (h : ValidCounts counts) : (builtTable counts T).nsym.toNat = countSum counts := by
  rw [builtTable, HuffTable.finish_nsym, BitVec.toNat_ofNat, Nat.mod_eq_of_lt (Nat.lt_of_le_of_lt h.1 (by decide))]

theorem loaded_builtTable : (builtTable counts T).loaded = true := by
  rw [builtTable, HuffTable.finish_loaded]

theorem values_builtTable : (builtTable counts T).values = T.values := by
  rw [builtTable, HuffTable.finish_values, canonTable_values]
  rfl

end

/-- Settles O39: each array of the table in closed form. -/
theorem canonicalTableBuilt : Obligations.CanonicalTableBuilt := fun _ h =>
  ⟨_, exec_hufBuild_valid h, loaded_builtTable, nsym_builtTable h, values_builtTable, canonical_builtTable h,
    (sized_builtTable h).2, sentinel_builtTable, fun _ hl => ⟨delta_builtTable h hl, maxcode_builtTable h hl⟩⟩

/-! ### The fast table (R153) -/

/-- A slot holds the last symbol written there, or 255 where none is. -/
theorem fastSlot_cases (T : HuffTable) (c n : Nat) :
    (fastSlot T c n < n ∧ fastCovers T c (fastSlot T c n) = true) ∨
      (fastSlot T c n = 255 ∧ ∀ i < n, fastCovers T c i = false) := by
  induction n with
  | zero => exact .inr ⟨rfl, fun i hi => absurd hi (Nat.not_lt_zero i)⟩
  | succ n ih =>
    rw [fastSlot]
    split
    · exact .inl ⟨Nat.lt_succ_self n, ‹_›⟩
    · rename_i hn
      refine ih.imp (fun ⟨hlt, hc⟩ => ⟨Nat.lt_succ_of_lt hlt, hc⟩) fun ⟨h255, hnone⟩ => ⟨h255, fun i hi => ?_⟩
      rcases Nat.lt_succ_iff_lt_or_eq.1 hi with hlt | rfl
      · exact hnone i hlt
      · exact eq_false_of_ne_true hn

/-- A symbol is written where its code has at most 9 bits and begins the string (R158). -/
theorem fastCovers_iff (T : HuffTable) (c i : Nat) :
    fastCovers T c i = true ↔
      (at? T.size i 0).toNat ≤ 9 ∧ (at? T.code i 0).toNat = c / 2 ^ (9 - (at? T.size i 0).toNat) := by
  simp only [fastCovers, Bool.and_eq_true, decide_eq_true_eq, and_assoc, Nat.shiftLeft_eq]
  refine and_congr_right fun _ => ?_
  rw [eq_comm (b := c / _), Nat.div_eq_iff (Nat.two_pow_pos _)]
  exact and_congr_right fun _ => Nat.lt_iff_le_pred (Nat.add_pos_right _ (Nat.two_pow_pos _))

/-- A slot of the finished table, in terms of the sizes and codes it has itself. -/
theorem fast_finish (T : HuffTable) (n : Nat) {c : Nat} (hc : c < 512) (d : Byte) :
    at? (T.finish n).fast c d = BitVec.ofNat 8 (fastSlot (T.finish n) c n) := by
  have hcovers (i : Nat) : fastCovers (T.finish n) c i = fastCovers (buildSentinel T) c i := by
    rw [Bool.eq_iff_iff, fastCovers_iff, fastCovers_iff, HuffTable.finish_size, HuffTable.finish_code, buildSentinel]
  have hslot (m : Nat) : fastSlot (T.finish n) c m = fastSlot (buildSentinel T) c m := by
    induction m with
    | zero => rw [fastSlot, fastSlot]
    | succ m ih => rw [fastSlot, fastSlot, hcovers, ih]
  rw [at?_of_lt _ hc, HuffTable.finish_fast, Vector.getElem_ofFn, hslot]

section
variable {counts : Vector Byte 16} {T : HuffTable} {c : Nat}

theorem HuffTable.Canonical.fastCovers_iff (h : T.Canonical counts) {l j : Nat} (hl : l < 16) (hj : j < countAt counts l) :
    fastCovers T c (firstIndex counts l + j) = true ↔ l ≤ 8 ∧ c / 2 ^ (8 - l) = firstCode counts l + j := by
  obtain ⟨hsize, hcode⟩ := h l hl j hj
  rw [Machine.fastCovers_iff, hsize, hcode, Nat.add_sub_add_right 8 1 l, eq_comm]
  exact and_congr_left fun _ => Nat.succ_le_succ_iff

/-- A code that begins the string is no longer than another that does: it would begin past all codes of the other's length. -/
theorem HuffTable.Canonical.length_le (h : T.Canonical counts) {l j m k : Nat} (hl : l < 16) (hj : j < countAt counts l)
    (hm : m < 16) (hk : k < countAt counts m) (hcl : fastCovers T c (firstIndex counts l + j) = true)
    (hcm : fastCovers T c (firstIndex counts m + k) = true) : m ≤ l := by
  by_contra hlm
  obtain ⟨-, hx⟩ := (h.fastCovers_iff hl hj).1 hcl
  obtain ⟨hm8, hy⟩ := (h.fastCovers_iff hm hk).1 hcm
  have hpast := lastCode_le_div (Nat.not_le.1 hlm) (hy ▸ Nat.le_add_right _ k)
  rw [Nat.div_div_eq_div_mul, ← Nat.pow_add, show 8 - m + (m - l) = 8 - l by omega, hx] at hpast
  omega

/-- The fast table holds the one symbol whose code begins the string (R153, R158). -/
theorem HuffTable.Canonical.fastSlot_eq (h : T.Canonical counts) {i : Nat} (hi : i < countSum counts)
    (hc : fastCovers T c i = true) : fastSlot T c (countSum counts) = i := by
  rcases fastSlot_cases T c (countSum counts) with ⟨hlt, hc'⟩ | ⟨-, hnone⟩
  · generalize fastSlot T c (countSum counts) = i' at hlt hc'
    obtain ⟨l, hl, j, hj, rfl⟩ := exists_length_of_lt_countSum hi
    obtain ⟨m, hm, k, hk, rfl⟩ := exists_length_of_lt_countSum hlt
    obtain rfl : l = m := Nat.le_antisymm (h.length_le hm hk hl hj hc' hc) (h.length_le hl hj hm hk hc hc')
    have hj' := ((h.fastCovers_iff hl hj).1 hc).2
    have hk' := ((h.fastCovers_iff hl hk).1 hc').2
    omega
  · exact absurd hc (by rw [hnone i hi]; exact Bool.false_ne_true)

theorem fastSlot_le {n : Nat} (hn : n ≤ 256) : fastSlot T c n ≤ 255 := by
  rcases fastSlot_cases T c n with ⟨hlt, -⟩ | ⟨h255, -⟩ <;> omega

theorem fast_builtTable (hsum : countSum counts ≤ 256) (hc : c < 512) (d : Byte) :
    (at? (builtTable counts T).fast c d).toNat = fastSlot (builtTable counts T) c (countSum counts) := by
  have hle := fastSlot_le (T := builtTable counts T) (c := c) hsum
  rw [builtTable] at hle ⊢
  rw [fast_finish _ _ hc, BitVec.toNat_ofNat, Nat.mod_eq_of_lt (by omega)]

end

/-- Settles O40: a slot holds the symbol whose code begins its string, of which there is one at most. -/
theorem fastTableLaw : Obligations.FastTableLaw := by
  intro s t h ht T n c hc
  obtain ⟨-, -, hT⟩ : _ ∧ _ ∧ T = _ := hufBuild_next h ht
  rw [hT, fast_builtTable h.1 hc]
  refine ⟨fun i hi hin => ?_, ?_⟩
  · rw [← fastCovers_iff]
    refine ⟨fun he => ?_, (canonical_builtTable h).fastSlot_eq hin⟩
    rcases fastSlot_cases (builtTable s.unit.counts _) c n with ⟨-, hcov⟩ | ⟨h255, -⟩
    · exact he ▸ hcov
    · exact absurd (he.symm.trans h255) (Nat.ne_of_lt hi)
  · exact (fastSlot_cases _ c n).symm.imp And.left And.left

/-! ### Decoding a symbol (R182 to R185) -/

theorem loadedHuff_loaded {s : State} {tc : Fin 2} {th : Fin 4} (h : (s.huffAt tc th).loaded = true) :
    loadedHuff tc th s = .ok (s.huffAt tc th) s := if_pos h

/-- A unit operation that gives a value writes it to the result register. -/
theorem runUnit_ok {α : Type} {m : Seq α} {f : α → BitVec 32} {s t : State} {a : α} (h : m s.unheld = .ok a t) :
    runUnit m f s = .next (t.setUnit { t.unit with result := f a }) :=
  runOp_ok (seq_bind_ok h _)

/-- DECODE_HUFF on given bits gives the symbol that is decoded from them (R182). -/
theorem exec_decodeHuff_ok {s : State} {b c : BitMachine} {v : Byte} (hs : s.unheld = s)
    (h : decodeHuffman (idx1 s.unit.tc) (idx2 s.unit.th) (s.setBits b) = .ok v (s.setBits c)) :
    exec .decodeHuff { s with bits := b } =
      .next { s with bits := c, unit := { s.unit with result := v.zeroExtend 32 } } := by
  have hb : (s.setBits b).unheld = s.setBits b := congrArg (State.setBits b) hs
  exact runUnit_ok (s := s.setBits b) ((congrArg _ hb).trans h)

section
variable {T : HuffTable} {s : State} {tc : Fin 2} {th : Fin 4}

/-- The search ends at the first length whose limit is above the next 16 bits (R184). -/
theorem slowLength_range' {x a m k : Nat} (hak : a ≤ k) (hkm : k < a + m)
    (hbelow : ∀ q, a ≤ q → q < k → (at? T.maxcode (q - 1) 0).toNat ≤ x) (hk : x < (at? T.maxcode (k - 1) 0).toNat) :
    slowLength T x (List.range' a m) = k := by
  induction m generalizing a with
  | zero => omega
  | succ m ih =>
    rw [List.range'_succ, slowLength]
    by_cases ha : a = k
    · rw [ha, if_pos hk]
    · rw [if_neg (Nat.not_lt.2 (hbelow a (Nat.le_refl a) (by omega))), ih (by omega) (by omega)]
      exact fun q hq => hbelow q (by omega)

/-- The slow path on a code of length `k` and index `i` whose bits are there (R184, R185). -/
theorem decodeSlow_ok {k i : Nat} (hk : slowLength T (s.bits.top 16) (List.range' 9 8) = k) (hk16 : k ≤ 16)
    (hcount : (k : Int) ≤ s.bits.count) (hi : (s.bits.top k : Int) + (at? T.delta (k - 1) 0).toInt = i) (hi255 : i ≤ 255) :
    decodeSlow T s = .ok (at? T.values i 0) (s.setBits (s.bits.consume k)) := by
  have hsearch : slowLength T (s.bits.top 16) [9, 10, 11, 12, 13, 14, 15, 16] = k := hk
  have hend : (k == 17) = false := by simp; omega
  have hshort : decide (s.bits.count < (k : Int)) = false := by simpa using hcount
  have hrange : (decide ((i : Int) < 0) || decide (255 < (i : Int))) = false := by simp; omega
  simp only [decodeSlow, look_bind, hsearch, hend, hshort, hi, hrange, check_false, pure_bind, consume, upd_bind, seq_pure,
    Int.toNat_natCast]

/-- A loaded table with enough bits there: the slot of the next 9 bits decides the path (R182). -/
theorem decodeHuffman_enough (h16 : 16 ≤ s.bits.count) (hloaded : (s.huffAt tc th).loaded = true) :
    decodeHuffman tc th s =
      if (at? (s.huffAt tc th).fast (s.bits.top 9) 255).toNat < 255 then
        decodeFast (s.huffAt tc th) (at? (s.huffAt tc th).fast (s.bits.top 9) 255).toNat s
      else decodeSlow (s.huffAt tc th) s := by
  rw [decodeHuffman, seq_bind_ok (fillBelow_enough h16), seq_bind_ok (loadedHuff_loaded hloaded), look_bind]
  split <;> rfl

/-- The fast path on a code whose bits are there (R183). -/
theorem decodeFast_ok {i : Nat} (hcount : ((at? T.size i 0).toNat : Int) ≤ s.bits.count) :
    decodeFast T i s = .ok (at? T.values i 0) (s.setBits (s.bits.consume (at? T.size i 0).toNat)) := by
  rw [decodeFast, seq_bind_ok (takeCode_enough hcount), seq_pure]

end

/-! ### The code of a symbol as the next bits (R157) -/

/-- Fewer of the next bits are the top of more of them. -/
theorem BitMachine.top_div (b : BitMachine) {m k : Nat} (hm : m ≤ k) (hk : k ≤ 32) : b.top k / 2 ^ (k - m) = b.top m := by
  rw [BitMachine.top, BitMachine.top, Nat.shiftRight_eq_div_pow, Nat.shiftRight_eq_div_pow, Nat.div_div_eq_div_mul,
    ← Nat.pow_add, show 32 - k + (k - m) = 32 - m by omega]

theorem BitMachine.top_lt (b : BitMachine) {m : Nat} (hm : m ≤ 32) : b.top m < 2 ^ m := by
  rw [BitMachine.top, Nat.shiftRight_eq_div_pow, Nat.div_lt_iff_lt_mul (Nat.two_pow_pos _), ← Nat.pow_add,
    Nat.add_sub_cancel' hm]
  exact b.codeBuffer.isLt

section
variable {counts : Vector Byte 16} {b : BitMachine} {l j : Nat}

/-- Where the next bits are a code of length `l + 1`, the shorter strings they begin with are above all codes of their length. -/
theorem lastCode_le_top {m : Nat} (hl : l < 16) (hb : b.top (l + 1) = firstCode counts l + j) (hm : m < l) :
    firstCode counts m + countAt counts m ≤ b.top (m + 1) := by
  have hpast := lastCode_le_div hm (hb ▸ Nat.le_add_right _ j)
  rwa [← Nat.add_sub_add_right l 1 m, b.top_div (by omega) (by omega)] at hpast

/-- The slot of a code: its symbol if it has at most 9 bits, else 255 (R158). -/
theorem HuffTable.Canonical.fastSlot_top {T : HuffTable} (h : T.Canonical counts) (hl : l < 16) (hj : j < countAt counts l)
    (hb : b.top (l + 1) = firstCode counts l + j) :
    fastSlot T (b.top 9) (countSum counts) = if l ≤ 8 then firstIndex counts l + j else 255 := by
  have htop {m : Nat} (hm : m ≤ 8) : b.top 9 / 2 ^ (8 - m) = b.top (m + 1) := by
    rw [← Nat.add_sub_add_right 8 1 m, b.top_div (by omega) (by decide)]
  split
  · rename_i hl8
    exact h.fastSlot_eq (firstIndex_sixteen counts ▸ firstIndex_add_lt counts hl hj)
      ((h.fastCovers_iff hl hj).2 ⟨hl8, (htop hl8).trans hb⟩)
  · rename_i hl8
    rcases fastSlot_cases T (b.top 9) (countSum counts) with ⟨hlt, hc⟩ | ⟨h255, -⟩
    · obtain ⟨m, hm, k, hk, hi⟩ := exists_length_of_lt_countSum hlt
      rw [hi, h.fastCovers_iff hm hk] at hc
      obtain ⟨hm8, hcode⟩ := hc
      rw [htop hm8] at hcode
      have hpast := lastCode_le_top hl hb (show m < l by omega)
      omega
    · exact h255

/-- The search finds the length of a code of 9 bits or more (R184). -/
theorem slowLength_builtTable {T : HuffTable} (h : ValidCounts counts) (hl8 : 8 ≤ l) (hl : l < 16) (hj : j < countAt counts l)
    (hb : b.top (l + 1) = firstCode counts l + j) :
    slowLength (builtTable counts T) (b.top 16) (List.range' 9 8) = l + 1 := by
  refine slowLength_range' (by omega) (by omega) (fun q hq hql => ?_) ?_
  · obtain ⟨m, rfl⟩ := Nat.exists_eq_add_of_le' (show 1 ≤ q by omega)
    rw [Nat.add_sub_cancel, maxcode_builtTable h (by omega), ← Nat.le_div_iff_mul_le (Nat.two_pow_pos _),
      ← Nat.add_sub_add_right 15 1 m, b.top_div (by omega) (by decide)]
    exact lastCode_le_top hl hb (by omega)
  · rw [Nat.add_sub_cancel, maxcode_builtTable h hl, ← Nat.div_lt_iff_lt_mul (Nat.two_pow_pos _),
      ← Nat.add_sub_add_right 15 1 l, b.top_div (by omega) (by decide), hb]
    exact Nat.add_lt_add_left hj _

/-- A code of a built table, as the next bits, is decoded to its symbol and taken (R157). -/
theorem decodeHuffman_code {T : HuffTable} {s : State} {tc : Fin 2} {th : Fin 4} (h : ValidCounts counts)
    (h7 : countAt counts 7 ≠ 256) (hs : s.huffAt tc th = builtTable counts T) (h16 : 16 ≤ s.bits.count) (hl : l < 16)
    (hj : j < countAt counts l) (hb : s.bits.top (l + 1) = firstCode counts l + j) :
    decodeHuffman tc th s = .ok (at? (builtTable counts T).values (firstIndex counts l + j) 0)
      (s.setBits (s.bits.consume (l + 1))) := by
  have hcanon := canonical_builtTable (T := T) h
  have hlt := firstIndex_add_lt counts hl hj
  rw [firstIndex_sixteen] at hlt
  have h256 := h.1
  rw [decodeHuffman_enough h16 (by rw [hs, loaded_builtTable]), hs, fast_builtTable h.1 (s.bits.top_lt (by decide)),
    hcanon.fastSlot_top hl hj hb]
  by_cases hfast : l ≤ 8 ∧ firstIndex counts l + j < 255
  · have hsize := (hcanon l hl j hj).1
    rw [if_pos hfast.1, if_pos hfast.2, decodeFast_ok (by rw [hsize]; omega), hsize]
  · have hl8 : 8 ≤ l := by
      by_cases h255 : firstIndex counts l + j = 255
      · exact h.eight_le_length h7 hl hj h255
      · omega
    rw [if_neg (by split_ifs <;> omega)]
    refine decodeSlow_ok (slowLength_builtTable h hl8 hl hj hb) (by omega) (by omega) ?_ (by omega)
    rw [hb, Nat.add_sub_cancel, delta_builtTable h hl]
    omega

end

/-- Settles O41: the fast table holds the codes of at most 9 bits, the search finds the others and the 256th symbol. -/
theorem canonicalRoundTrip : Obligations.CanonicalRoundTrip := by
  intro s t i b h h7 ht hi h16 _ T hb
  obtain ⟨hunheld, hunit, hT⟩ : _ ∧ _ ∧ T = _ := hufBuild_next h ht
  obtain ⟨l, hl, j, hj, rfl⟩ := exists_length_of_lt_countSum hi
  obtain ⟨hsize, hcode⟩ := canonical_builtTable (T := s.huffAt (idx1 s.unit.tc) (idx2 s.unit.th)) h l hl j hj
  rw [hT, hsize, hcode] at hb
  rw [hT, hsize]
  exact exec_decodeHuff_ok hunheld (decodeHuffman_code (s := t.setBits b) h h7 (by rw [hunit]; exact hT) h16 hl hj hb)

/-! ### The fast-AC table (R154, R155) -/

/-- The fields of an entry (R122). -/
theorem fastFields_trunc16 {v : Int} {run len : Nat} (hv : -128 ≤ v ∧ v ≤ 127) (hrun : run < 16) (hlen : len < 16) :
    let e := trunc16 (v * 256 + (run * 16 : Nat) + len)
    fastValue e = v ∧ fastRun e = run ∧ fastLen e = len := by
  intro e
  have he : (e.toNat : Int) = (v * 256 + (run * 16 : Nat) + len) % 65536 := by
    simp only [e, trunc16, BitVec.toNat_ofInt]
    omega
  refine ⟨?_, ?_, ?_⟩
  · simp only [fastValue, BitVec.toInt_eq_toNat_cond, BitVec.extractLsb'_toNat, Nat.shiftRight_eq_div_pow]
    omega
  · simp only [fastRun, BitVec.extractLsb'_toNat, Nat.shiftRight_eq_div_pow]
    omega
  · simp only [fastLen, BitVec.extractLsb'_toNat, Nat.shiftRight_eq_div_pow]
    omega

theorem magnitude_of_ne_zero {n : Nat} (hn : n ≠ 0) (v : Nat) :
    magnitude n v = if 2 ^ (n - 1) ≤ v then (v : Int) else (v : Int) - (2 ^ n - 1) := by
  rw [magnitude, if_neg hn, Nat.cast_sub Nat.one_le_two_pow, Nat.cast_pow]
  rfl

theorem exec_fastacBuild {s : State} (h : (s.huffAt 1 (idx2 s.unit.th)).loaded = true) :
    exec .fastacBuild s = .next (s.unheld.setFastAc (idx2 s.unit.th)
      (Vector.ofFn fun c : Fin 512 => fastAcEntry (s.huffAt 1 (idx2 s.unit.th)) c.val)) := by
  refine runOp_ok ?_
  rw [fastacBuild, seq_bind_ok (loadedHuff_loaded (s := s.unheld) h)]
  rfl

/-- Settles O43: an entry is written where all tests of R155 hold, with its three fields apart. -/
theorem fastAcEntries : Obligations.FastAcEntries := by
  intro s h T
  refine ⟨_, exec_fastacBuild h, fun c => ?_⟩
  intro f rs mag len k value
  have hentry : (Vector.ofFn fun c : Fin 512 => fastAcEntry T c.val).get c = fastAcEntry T c.val := by
    simp [Vector.get_eq_getElem]
  have hf : (at? T.fast c.val 255).toNat = f := by rw [at?_of_lt _ c.isLt]; rfl
  have hvalue (hmag : mag ≠ 0) : magnitude mag (fastAcBits c.val len mag) = value := by
    rw [magnitude_of_ne_zero hmag, fastAcBits, Nat.shiftLeft_eq, Nat.shiftRight_eq_div_pow]
  rw [hentry, fastAcEntry, hf]
  split
  · rename_i hall
    obtain ⟨hf255, hmag, hlen, hv⟩ := hall
    have hbyte : rs < 256 := (at? T.values f 0).isLt
    rw [if_pos hf255, if_pos ⟨hmag, hlen⟩, hvalue hmag, if_pos hv]
    exact fastFields_trunc16 hv (by omega) (by omega)
  · rename_i hnot
    by_cases hf255 : f < 255
    · by_cases hfit : mag ≠ 0 ∧ len + mag ≤ 9
      · rw [if_pos hf255, if_pos hfit, hvalue hfit.1, if_neg fun hv => hnot ⟨hf255, hfit.1, hfit.2, hv⟩]
      · rw [if_pos hf255, if_neg hfit]
    · rw [if_neg hf255]

end Sys2Proof.Machine

/-! PROOFS of the statements about the bit machine (41_bit_entropy.md): what appending and consuming do to the valid bits, a round of
FillBits on each thing that can stand next in the stream, FillBits as a whole, and the raw-bit and Huffman reads after it. -/

namespace Sys2Proof.Machine

/-! ### Appending and consuming (R180, R181) -/

namespace BitMachine

@[simp] theorem appendAll_nil (m : BitMachine) : m.appendAll [] = m := rfl

@[simp] theorem appendAll_cons (m : BitMachine) (d : Byte × Nat) (ds : List (Byte × Nat)) :
    m.appendAll (d :: ds) = (m.append d.1).appendAll ds := rfl

@[simp] theorem appendAll_concat (m : BitMachine) (ds : List (Byte × Nat)) (d : Byte × Nat) :
    m.appendAll (ds ++ [d]) = (m.appendAll ds).append d.1 := List.foldl_append

@[simp] theorem appendAll_noMoreBits (m : BitMachine) (ds : List (Byte × Nat)) :
    (m.appendAll ds).noMoreBits = m.noMoreBits := by
  induction ds generalizing m with
  | nil => rfl
  | cons d ds ih => exact ih _

/-- `code_bits` is an s8: eight more bits fit in it (R43). -/
theorem append_count {m : BitMachine} (h : m.count ≤ 24) (b : Byte) : (m.append b).count = m.count + 8 := by
  simp only [BitMachine.append, count, BitVec.toInt_eq_toNat_cond, BitVec.toNat_add, BitVec.reduceToNat] at *
  omega

theorem consume_count {m : BitMachine} {n : Nat} (hn : (n : Int) ≤ m.count) : (m.consume n).count = m.count - n := by
  simp only [consume, count, BitVec.toInt_eq_toNat_cond, BitVec.toNat_sub, BitVec.toNat_ofNat] at *
  omega

theorem appendAll_count {m : BitMachine} {ds : List (Byte × Nat)} (h : m.count + 8 * ds.length ≤ 32) :
    (m.appendAll ds).count = m.count + 8 * ds.length := by
  induction ds generalizing m with
  | nil => simp
  | cons d ds ih =>
    rw [List.length_cons] at h ⊢
    have hd := append_count (m := m) (by omega) d.1
    rw [appendAll_cons, ih (by omega), hd]
    omega

/-- A sound accumulator is its valid bits with zeros below them (R55, R190). -/
theorem Ok.toNat_codeBuffer {m : BitMachine} (h : m.Ok) :
    m.codeBuffer.toNat = m.top m.count.toNat * 2 ^ (32 - m.count.toNat) := by
  obtain ⟨-, -, hz⟩ := h
  rw [top, Nat.shiftRight_eq_div_pow, Nat.div_mul_cancel (Nat.dvd_of_mod_eq_zero hz)]

/-- The byte stands just below the valid bits (R180). -/
theorem Ok.top_append {m : BitMachine} (h : m.Ok) (hc : m.count ≤ 24) (b : Byte) :
    (m.append b).top (m.count.toNat + 8) = 256 * m.top m.count.toNat + b.toNat := by
  obtain ⟨k, hk⟩ : ∃ k : Nat, m.count = 24 - (k : Int) := ⟨(24 - m.count).toNat, by omega⟩
  obtain ⟨h0, -, -⟩ := id h
  have hvalid : 32 - m.count.toNat = 8 + k := by omega
  have hleft : 32 - (m.count.toNat + 8) = k := by omega
  have hshift : (24 - m.count).toNat = k := by omega
  have hb : b.toNat * 2 ^ k < 2 ^ 32 :=
    calc b.toNat * 2 ^ k < 2 ^ 8 * 2 ^ k := Nat.mul_lt_mul_of_pos_right b.isLt (Nat.two_pow_pos k)
      _ = 2 ^ (8 + k) := (Nat.pow_add ..).symm
      _ ≤ 2 ^ 32 := Nat.pow_le_pow_right (by decide) (by omega)
  have hbits : b.toNat < 2 ^ 32 := by omega
  have hbyte : (b.zeroExtend 32 <<< k).toNat = b.toNat <<< k := by
    rw [BitVec.toNat_shiftLeft, BitVec.toNat_setWidth, Nat.mod_eq_of_lt hbits, Nat.shiftLeft_eq,
      Nat.mod_eq_of_lt hb]
  rw [top, hleft, BitMachine.append, hshift, BitVec.toNat_or, hbyte, h.toNat_codeBuffer, hvalid, Nat.pow_add, ← Nat.mul_assoc,
    ← Nat.shiftLeft_eq _ k, ← Nat.shiftLeft_or_distrib, Nat.shiftLeft_shiftRight, Nat.mul_comm _ (2 ^ 8),
    ← Nat.two_pow_add_eq_or_of_lt b.isLt]

/-- Consuming moves the bits below to the top (R181). -/
theorem top_consume (m : BitMachine) {n k : Nat} (h : n + k ≤ 32) : (m.consume n).top k = m.top (n + k) % 2 ^ k := by
  have h32 : 2 ^ 32 = 2 ^ (32 - k) * 2 ^ k := by rw [← Nat.pow_add, Nat.sub_add_cancel (by omega)]
  have hk : 2 ^ (32 - k) = 2 ^ (32 - (n + k)) * 2 ^ n := by rw [← Nat.pow_add]; congr 1; omega
  rw [top, top, consume, BitVec.toNat_shiftLeft, Nat.shiftLeft_eq, Nat.shiftRight_eq_div_pow, Nat.shiftRight_eq_div_pow, h32,
    Nat.mod_mul_right_div_self, hk, Nat.mul_div_mul_right _ _ (Nat.two_pow_pos n)]

end BitMachine

/-- Settles O33: the byte is the low 8 of the valid bits, so the bits above it are those that were there. -/
theorem appendedAndConsumedBits : Obligations.AppendedAndConsumedBits := by
  refine ⟨fun m b hok hroom => ?_, fun m n hok hn => ?_⟩
  · have htop := hok.top_append hroom b
    have h32 : m.count.toNat + 8 ≤ 32 := by omega
    refine ⟨hok.append hroom b, BitMachine.append_count hroom b, ?_, htop, rfl, rfl⟩
    rw [← BitMachine.top_div _ (Nat.le_add_right _ 8) h32, htop, Nat.add_sub_cancel_left]
    have hb : b.toNat < 256 := b.isLt
    omega
  · exact ⟨hok.consume hn, BitMachine.consume_count hn, fun k => m.top_consume, rfl, rfl⟩

/-! ### One round of FillBits (R180) -/

theorem State.consumed_input {s : State} {l rest : List Byte} (h : s.port.input = l ++ rest) :
    (s.consumed l.length).port.input = rest := by
  rw [State.consumed, h, List.drop_left]

/-- Bytes taken one after the other. -/
theorem State.consumed_consumed (s : State) (j k : Nat) : (s.consumed j).consumed k = s.consumed (j + k) := by
  simp only [State.consumed, List.drop_drop, BitVec.ofNat_add, BitVec.add_assoc]

theorem readU8_consumed {s : State} {b : Byte} {rest : List Byte} (h : s.port.input = b :: rest) :
    readU8 s = .ok b (s.consumed 1) := by
  rw [readU8_cons h, State.consumed, h]
  rfl

theorem readPastFF_consumed {s : State} {k n : Nat} {c : Byte} {rest : List Byte} (hc : c ≠ 0xFF) (hn : k ≤ n)
    (h : s.port.input = List.replicate k 0xFF ++ c :: rest) : readPastFF n s = .ok c (s.consumed (k + 1)) := by
  have hdrop : s.port.input.drop (k + 1) = rest := by simp [h, List.drop_append]
  rw [readPastFF_append k n c rest s hc hn h, State.consumed, hdrop]

section
variable {s : State} {rest : List Byte}

/-- After a latched marker a round appends a zero byte. -/
theorem fillRound_stopped (hstop : s.bits.noMoreBits = true) :
    fillRound s = .ok true (s.setBits (s.bits.append 0)) := by
  rw [fillRound, look_bind, if_pos hstop]
  rfl

/-- After a byte 0xFF the code past the fill bytes decides: 0x00 is a stuffed data byte, any other a marker. -/
theorem afterFF_code {k : Nat} {c : Byte} (hc : c ≠ 0xFF) (h : s.port.input = List.replicate k 0xFF ++ c :: rest) :
    afterFF s = if c = 0 then .ok true ((s.consumed (k + 1)).setBits (s.bits.append 0xFF))
      else .ok false ((s.consumed (k + 1)).setBits (s.bits.latch c)) := by
  have hk : k ≤ s.port.input.length := by simp [h]
  rw [afterFF, supplied, look_bind, seq_bind_ok (readPastFF_consumed hc hk h)]
  split_ifs <;> rfl

/-- A byte 0xFF, fill bytes and the code after them. -/
theorem fillRound_ff {k : Nat} {c : Byte} (hopen : s.bits.noMoreBits = false) (hc : c ≠ 0xFF)
    (h : s.port.input = markerBytes k c ++ rest) :
    fillRound s = if c = 0 then .ok true ((s.consumed (k + 2)).setBits (s.bits.append 0xFF))
      else .ok false ((s.consumed (k + 2)).setBits (s.bits.latch c)) := by
  have hff : s.port.input = 0xFF :: (List.replicate k 0xFF ++ c :: rest) := by simpa [markerBytes] using h
  have hcode : (s.consumed 1).port.input = List.replicate k 0xFF ++ c :: rest := State.consumed_input (l := [0xFF]) hff
  rw [fillRound, look_bind, hopen, if_neg Bool.false_ne_true, seq_bind_ok (readU8_consumed hff), if_pos rfl,
    afterFF_code hc hcode, State.consumed_consumed, Nat.add_comm 1 (k + 1)]
  rfl

/-- A round takes a data byte as it stands in the stream, stuffed or not (R112). -/
theorem fillRound_data {d : Byte × Nat} (hopen : s.bits.noMoreBits = false) (h : s.port.input = ecsItem d ++ rest) :
    fillRound s = .ok true ((s.consumed (ecsItem d).length).setBits (s.bits.append d.1)) := by
  unfold ecsItem at h ⊢
  by_cases hd : d.1 = 0xFF
  · rw [if_pos hd] at h ⊢
    rw [fillRound_ff hopen (by decide) h, if_pos rfl, hd]
    simp
  · rw [if_neg hd] at h ⊢
    rw [fillRound, look_bind, hopen, if_neg Bool.false_ne_true, seq_bind_ok (readU8_consumed h), if_neg hd]
    rfl

/-- A round takes a marker and latches it. -/
theorem fillRound_marker {k : Nat} {m : Byte} (hopen : s.bits.noMoreBits = false) (h0 : m ≠ 0) (hff : m ≠ 0xFF)
    (h : s.port.input = markerBytes k m ++ rest) :
    fillRound s = .ok false ((s.consumed (k + 2)).setBits (s.bits.latch m)) := by
  rw [fillRound_ff hopen hff h, if_neg h0]

end

/-! ### FillBits (R180) -/

theorem fillLoop_succ {s t : State} {more : Bool} (n : Nat) (h : fillRound s = .ok more t) :
    fillLoop (n + 1) s = if more = true ∧ t.bits.count ≤ 24 then fillLoop n t else .ok () t := by
  rw [fillLoop, seq_bind_ok h, look_bind]
  simp only [Bool.and_eq_true, decide_eq_true_eq]
  split_ifs <;> rfl

theorem fillBits_room {s : State} (h : s.bits.count ≤ 24) : fillBits s = fillLoop 20 s := by
  have hfull : decide (24 < s.bits.count) = false := decide_eq_false (Int.not_lt.2 h)
  rw [fillBits, look_bind, hfull]
  rfl

/-- A zero byte changes no bit of the accumulator. -/
theorem BitMachine.append_zero (m : BitMachine) : m.append 0 = { m with codeBits := m.codeBits + 8 } := by
  simp [BitMachine.append]

/-- After a latched marker `j + 1` zero bytes make it more than 24 bits. -/
theorem fillLoop_zeros {j n : Nat} {s : State} (hstop : s.bits.noMoreBits = true) (hroom : s.bits.count + 8 * j ≤ 24)
    (hfull : 24 < s.bits.count + 8 * j + 8) (hjn : j ≤ n) :
    fillLoop (n + 1) s =
      .ok () (s.setBits { s.bits with codeBits := s.bits.codeBits + BitVec.ofNat 8 (8 * (j + 1)) }) := by
  induction j generalizing n s with
  | zero =>
    have hcount := BitMachine.append_count (m := s.bits) (by omega) 0
    rw [fillLoop_succ n (fillRound_stopped hstop), State.setBits_bits, if_neg (by omega), BitMachine.append_zero]
    rfl
  | succ j ih =>
    obtain ⟨n, rfl⟩ := Nat.exists_eq_add_of_le' (show 1 ≤ n by omega)
    have hcount := BitMachine.append_count (m := s.bits) (by omega) 0
    have hrest := ih (n := n) (s := s.setBits (s.bits.append 0)) hstop (by rw [State.setBits_bits]; omega)
      (by rw [State.setBits_bits]; omega) (by omega)
    rw [fillLoop_succ _ (fillRound_stopped hstop), State.setBits_bits, if_pos ⟨rfl, by omega⟩, hrest, State.setBits_bits,
      BitMachine.append_zero, Nat.mul_succ 8 (j + 1), Nat.add_comm _ 8, BitVec.ofNat_add, ← BitVec.add_assoc]
    rfl

/-- The data bytes that still leave room for one more are taken one after the other. -/
theorem fillLoop_data {ds : List (Byte × Nat)} {s : State} {rest : List Byte} (n : Nat) (hopen : s.bits.noMoreBits = false)
    (hroom : s.bits.count + 8 * ds.length ≤ 24) (h : s.port.input = ecsBytes ds ++ rest) :
    fillLoop (ds.length + n) s = fillLoop n ((s.consumed (ecsBytes ds).length).setBits (s.bits.appendAll ds)) := by
  induction ds generalizing s with
  | nil => simp [State.consumed, State.setBits, ecsBytes]
  | cons d ds ih =>
    rw [List.length_cons] at hroom ⊢
    have hcount := BitMachine.append_count (m := s.bits) (by omega) d.1
    have hd : s.port.input = ecsItem d ++ (ecsBytes ds ++ rest) := by simpa [ecsBytes] using h
    have hrest := ih (s := (s.consumed (ecsItem d).length).setBits (s.bits.append d.1)) hopen
      (by rw [State.setBits_bits]; omega) (State.consumed_input hd)
    have hlen : (ecsBytes (d :: ds)).length = (ecsItem d).length + (ecsBytes ds).length := List.length_append
    rw [Nat.add_right_comm, fillLoop_succ _ (fillRound_data hopen hd), State.setBits_bits, if_pos ⟨rfl, by omega⟩, hrest, hlen,
      ← State.consumed_consumed]
    rfl

/-- Appending data bytes latches no marker, and the bytes after them come next. -/
theorem State.appended_next {s : State} {ds : List (Byte × Nat)} {l : List Byte} (hopen : s.bits.noMoreBits = false)
    (h : s.port.input = ecsBytes ds ++ l) :
    let t := (s.consumed (ecsBytes ds).length).setBits (s.bits.appendAll ds)
    t.bits.noMoreBits = false ∧ t.port.input = l :=
  ⟨(s.bits.appendAll_noMoreBits ds).trans hopen, State.consumed_input h⟩

/-- FillBits after a latched marker. -/
theorem fillBits_zeros {s : State} (h0 : 0 ≤ s.bits.count) (h24 : s.bits.count ≤ 24) (hstop : s.bits.noMoreBits = true) :
    fillBits s = .ok () { s with
      bits := { s.bits with codeBits := s.bits.codeBits + BitVec.ofNat 8 (8 * ((24 - s.bits.count.toNat) / 8 + 1)) } } := by
  rw [fillBits_room h24]
  exact fillLoop_zeros hstop (by omega) (by omega) (by omega)

/-- FillBits where enough data bytes come next: all but the last leave room for another. -/
theorem fillBits_data {s : State} {ds : List (Byte × Nat)} {rest : List Byte} (h0 : 0 ≤ s.bits.count)
    (h24 : s.bits.count ≤ 24) (hopen : s.bits.noMoreBits = false) (hlen : ds.length = (24 - s.bits.count.toNat) / 8 + 1)
    (h : s.port.input = ecsBytes ds ++ rest) :
    fillBits s = .ok () { s.consumed (ecsBytes ds).length with bits := s.bits.appendAll ds } := by
  obtain ⟨es, d, rfl⟩ := List.eq_nil_or_concat' ds |>.resolve_left (List.ne_nil_of_length_eq_add_one hlen)
  rw [List.length_append, List.length_singleton] at hlen
  have hcount := BitMachine.appendAll_count (m := s.bits) (ds := es) (by omega)
  have hnext := BitMachine.append_count (m := s.bits.appendAll es) (by omega) d.1
  have hsplit : ecsBytes (es ++ [d]) = ecsBytes es ++ ecsItem d := by simp [ecsBytes]
  rw [hsplit, List.append_assoc] at h
  obtain ⟨n, hn⟩ : ∃ n, 20 = es.length + (n + 1) := ⟨19 - es.length, by omega⟩
  obtain ⟨hopen', hin'⟩ := State.appended_next hopen h
  rw [fillBits_room h24, hn, fillLoop_data _ hopen (by omega) h,
    fillLoop_succ n (fillRound_data hopen' hin'), State.setBits_bits, State.setBits_bits, if_neg (by omega),
    hsplit, List.length_append, ← State.consumed_consumed, BitMachine.appendAll_concat]
  rfl

/-- FillBits where a marker comes before enough data bytes. -/
theorem fillBits_marker {s : State} {ds : List (Byte × Nat)} {k : Nat} {m : Byte} {rest : List Byte} (h0 : 0 ≤ s.bits.count)
    (h24 : s.bits.count ≤ 24) (hopen : s.bits.noMoreBits = false) (hlen : ds.length ≤ (24 - s.bits.count.toNat) / 8)
    (hm0 : m ≠ 0) (hff : m ≠ 0xFF) (h : s.port.input = ecsBytes ds ++ (markerBytes k m ++ rest)) :
    fillBits s = .ok () { s.consumed ((ecsBytes ds).length + (k + 2)) with
      bits := { s.bits.appendAll ds with marker := m, noMoreBits := true } } := by
  obtain ⟨n, hn⟩ : ∃ n, 20 = ds.length + (n + 1) := ⟨19 - ds.length, by omega⟩
  obtain ⟨hopen', hin'⟩ := State.appended_next hopen h
  rw [fillBits_room h24, hn, fillLoop_data _ hopen (by omega) h,
    fillLoop_succ n (fillRound_marker hopen' hm0 hff hin'), if_neg fun hmore => Bool.false_ne_true hmore.1,
    ← State.consumed_consumed s _ (k + 2)]
  rfl

/-- The filled state is what FillBits leaves. -/
theorem State.Filled.fillBits_eq {s f : State} (hf : s.Filled f) (h0 : 0 ≤ s.bits.count) (h24 : s.bits.count ≤ 24) :
    fillBits s.unheld = .ok () f := by
  rcases hf with ⟨hstop, rfl⟩ | ⟨hopen, ds, rest, hlen, hin, rfl⟩ | ⟨hopen, ds, k, m, rest, hlen, hm0, hff, hin, rfl⟩
  · exact fillBits_zeros (s := s.unheld) h0 h24 hstop
  · exact fillBits_data (s := s.unheld) h0 h24 hopen hlen hin
  · exact fillBits_marker (s := s.unheld) h0 h24 hopen hlen hm0 hff hin

theorem exec_fill {s f : State} (hf : s.Filled f) (h0 : 0 ≤ s.bits.count) (h24 : s.bits.count ≤ 24) :
    exec .fill s = .next f :=
  runOp_ok (hf.fillBits_eq h0 h24)

/-- Settles O34: the three ways FillBits ends are those of the filled state. -/
theorem fillEffect : Obligations.FillEffect :=
  ⟨fun _ h0 h24 hstop => exec_fill (.inl ⟨hstop, rfl⟩) h0 h24,
    fun _ ds rest h0 h24 hopen hlen hin => exec_fill (.inr (.inl ⟨hopen, ds, rest, hlen, hin, rfl⟩)) h0 h24,
    fun _ ds k m rest h0 h24 hopen hlen hm0 hff hin =>
      exec_fill (.inr (.inr ⟨hopen, ds, k, m, rest, hlen, hm0, hff, hin, rfl⟩)) h0 h24⟩

/-! ### Raw bits (R186 to R188) -/

/-- Fewer bits than asked for after the fill: nothing is consumed. -/
theorem rawBits_short {α : Type} {n : Nat} {f : Nat → α} {d : α} {s t : State} (hfill : fillBelow n s = .ok () t)
    (h : t.bits.count < (n : Int)) : rawBits n f d s = .ok d t := by
  have hfew : decide (t.bits.count < (n : Int)) = true := decide_eq_true h
  rw [rawBits, seq_bind_ok hfill, look_bind, hfew]
  rfl

/-- The value of the next `n` bits as a quotient of the accumulator. -/
theorem BitMachine.top_eq_div (b : BitMachine) (n : Nat) : b.top n = b.codeBuffer.toNat / 2 ^ (32 - n) :=
  Nat.shiftRight_eq_div_pow _ _

/-- The next bit is bit 31 of the accumulator (R187). -/
theorem BitMachine.top_one (b : BitMachine) : (b.top 1 == 1) = b.codeBuffer.getLsbD 31 := by
  have htop : b.top 1 < 2 := b.top_lt (by decide)
  rw [BitVec.getLsbD, Nat.testBit_eq_decide_div_mod_eq, ← b.top_eq_div 1, Nat.mod_eq_of_lt htop]
  rfl

section
variable {s : State} {n : Nat}

theorem exec_getBits_enough (hn : s.unit.n.toNat = n) (h : (n : Int) ≤ s.bits.count) :
    exec .getBits s = .next { s.unheld with
      bits := s.bits.consume n, unit := { s.unit with result := BitVec.ofNat 32 (s.bits.top n) } } := by
  subst hn
  exact runUnit_ok (rawBits_enough (s := s.unheld) h)

theorem exec_receiveExtend_enough (hn : s.unit.n.toNat = n) (h : (n : Int) ≤ s.bits.count) :
    exec .receiveExtend s = .next { s.unheld with
      bits := s.bits.consume n, unit := { s.unit with result := wrap32 (magnitude n (s.bits.top n)) } } := by
  subst hn
  exact runUnit_ok (rawBits_enough (s := s.unheld) h)

theorem exec_getBit_enough (h : 1 ≤ s.bits.count) :
    exec .getBit s = .next { s.unheld with
      bits := s.bits.consume 1, unit := { s.unit with result := if s.bits.top 1 == 1 then 1 else 0 } } :=
  runUnit_ok (rawBits_enough (s := s.unheld) (n := 1) h)

end

/-- Settles O35: with the bits there no fill comes first. -/
theorem rawBitsTaken : Obligations.RawBitsTaken := by
  refine ⟨?_, fun s hcount _ => ?_⟩
  · intro s n hn h1 hcount _ v rest
    rw [exec_getBits_enough hn hcount, exec_receiveExtend_enough hn hcount, BitMachine.top_eq_div,
      magnitude_of_ne_zero (Nat.ne_of_gt h1)]
    exact ⟨rfl, rfl⟩
  · rw [exec_getBit_enough hcount, BitMachine.top_one]
    rfl

/-- Settles O36: the fill ends at the marker with too few bits, and each operation gives its short value. -/
theorem shortRawBits : Obligations.ShortRawBits := by
  intro s i n ds k m rest h0 h24 hi hshort hlen hopen hm0 hff hin
  have hfill := fillBits_marker (s := s.unheld) h0 h24 hopen hlen hm0 hff hin
  have hbelow := (fillBelow_short (s := s.unheld) (n := n) (by rw [State.unheld_bits]; omega)).trans hfill
  have hcount : (s.bits.appendAll ds).count < (n : Int) := by rwa [BitMachine.appendAll_count (by omega)]
  rcases hi with ⟨rfl, rfl⟩ | ⟨rfl, rfl⟩ | ⟨rfl, rfl⟩ <;> exact runUnit_ok (rawBits_short hbelow hcount)

/-! ### Decoding a symbol after the fill (R182 to R185) -/

theorem State.FilledTo.fillBelow_eq {s f : State} {n : Nat} (hf : s.FilledTo n f) (hn : n ≤ 25) :
    fillBelow n s.unheld = .ok () f := by
  unfold State.FilledTo at hf
  split_ifs at hf with henough
  · rw [hf]
    exact fillBelow_enough henough
  · obtain ⟨h0, hfilled⟩ := hf
    rw [fillBelow_short (s := s.unheld) (Int.not_le.1 henough)]
    exact hfilled.fillBits_eq h0 (by omega)

/-- A fill writes no table. -/
theorem State.FilledTo.huffAt_eq {s f : State} {n : Nat} (hf : s.FilledTo n f) (tc : Fin 2) (th : Fin 4) :
    f.huffAt tc th = s.huffAt tc th := by
  unfold State.FilledTo at hf
  split_ifs at hf
  · rw [hf]
    rfl
  · obtain ⟨-, ⟨-, rfl⟩ | ⟨-, ds, rest, -, -, rfl⟩ | ⟨-, ds, k, m, rest, -, -, -, -, rfl⟩⟩ := hf
    all_goals rfl

theorem runUnit_raise {α : Type} {m : Seq α} {f : α → BitVec 32} {s t : State} {e : ErrCode}
    (h : m s.unheld = .error (.raise e) t) : runUnit m f s = .next (t.takeError e) :=
  runOp_raise (seq_bind_error h _)

section
variable {T : HuffTable} {f s : State} {tc : Fin 2} {th : Fin 4}

/-- After the fill the slot of the next 9 bits decides the path (R182). -/
theorem decodeHuffman_filled (hfill : fillBelow 16 s = .ok () f) (hloaded : (f.huffAt tc th).loaded = true) :
    decodeHuffman tc th s =
      if (at? (f.huffAt tc th).fast (f.bits.top 9) 255).toNat < 255 then
        decodeFast (f.huffAt tc th) (at? (f.huffAt tc th).fast (f.bits.top 9) 255).toNat f
      else decodeSlow (f.huffAt tc th) f := by
  rw [decodeHuffman, seq_bind_ok hfill, seq_bind_ok (loadedHuff_loaded hloaded), look_bind]
  split <;> rfl

/-- The fast path on a code longer than the bits that are there (R183). -/
theorem decodeFast_short {i : Nat} (hcount : s.bits.count < ((at? T.size i 0).toNat : Int)) :
    decodeFast T i s = .error (.raise .badHuffmanCode) s :=
  seq_bind_error (takeCode_short hcount) _

/-- The search passes every length whose limit is not above the next 16 bits (R184). -/
theorem slowLength_none {x a m : Nat} (h : ∀ q, a ≤ q → q < a + m → (at? T.maxcode (q - 1) 0).toNat ≤ x) :
    slowLength T x (List.range' a m) = 17 := by
  induction m generalizing a with
  | zero => rfl
  | succ m ih =>
    rw [List.range'_succ, slowLength, if_neg (Nat.not_lt.2 (h a (Nat.le_refl a) (by omega)))]
    exact ih fun q hq hqm => h q (by omega) (by omega)

theorem check_bind {α : Type} (c : Bool) (e : ErrCode) (k : Unit → Seq α) (s : State) :
    (check c e >>= k) s = if c then .error (.raise e) s else k () s := by
  cases c <;> rfl

/-- The slow path where no length is found, the code is too long, or its index is out of range (R184, R185). -/
theorem decodeSlow_bad {k : Nat} (hk : slowLength T (s.bits.top 16) (List.range' 9 8) = k)
    (h : k = 17 ∨ s.bits.count < (k : Int) ∨ (s.bits.top k : Int) + (at? T.delta (k - 1) 0).toInt < 0 ∨
      255 < (s.bits.top k : Int) + (at? T.delta (k - 1) 0).toInt) :
    decodeSlow T s = .error (.raise .badHuffmanCode) s := by
  have hsearch : slowLength T (s.bits.top 16) [9, 10, 11, 12, 13, 14, 15, 16] = k := hk
  simp only [decodeSlow, look_bind, hsearch, check_bind, beq_iff_eq, decide_eq_true_eq, Bool.or_eq_true]
  split_ifs with hnone hlong hrange
  · rfl
  · rfl
  · rfl
  · omega

end

/-- Settles O38: the fill, then the fast path, or the slow path with a length found or none. -/
theorem huffmanSymbolDecoded : Obligations.HuffmanSymbolDecoded := by
  intro s f hf _ tc th T gives fails hloaded
  have hT : f.huffAt tc th = T := hf.huffAt_eq tc th
  have hdecode := decodeHuffman_filled (tc := tc) (th := th) (hf.fillBelow_eq (by decide)) (hT ▸ hloaded)
  rw [hT] at hdecode
  have hgives {n : Nat} {v : Byte} (h : decodeHuffman tc th s.unheld = .ok v (f.setBits (f.bits.consume n))) : gives n v :=
    runUnit_ok h
  have hfails (h : decodeHuffman tc th s.unheld = .error (.raise .badHuffmanCode) f) : fails := runUnit_raise h
  refine ⟨fun v n hsymbol => ?_, fun hslot => ?_⟩
  · obtain ⟨-, hfast, rfl, rfl⟩ := hsymbol
    rw [hT] at hfast ⊢
    rw [if_pos hfast] at hdecode
    exact ⟨fun h => hgives (hdecode.trans (decodeFast_ok h)), fun h => hfails (hdecode.trans (decodeFast_short h))⟩
  · rw [if_neg (by rw [hslot]; decide)] at hdecode
    refine ⟨?_, fun hnone => ?_⟩
    · intro k h9 h16 hbelow hk i
      have hfound := slowLength_range' (m := 8) h9 (by omega) hbelow hk
      refine ⟨fun h => hfails (hdecode.trans (decodeSlow_bad hfound (.inr (.inl h)))),
        fun _ h => hfails (hdecode.trans (decodeSlow_bad hfound (.inr (.inr h)))), fun hcount h0 h255 => ?_⟩
      exact hgives (hdecode.trans (decodeSlow_ok hfound h16 hcount (Int.toNat_of_nonneg h0).symm (by omega)))
    · have hend := slowLength_none (m := 8) fun q hq hq17 => hnone q hq (by omega)
      exact hfails (hdecode.trans (decodeSlow_bad hend (.inl rfl)))

end Sys2Proof.Machine

/-! PROOFS of the statements about the marker parser (42_marker_parser.md): reading bytes and markers; what each piece of a rule leaves
unchanged, and the phase graph; then the segments, each with an equation for what its pieces do on the bytes of its fields. -/

namespace Sys2Proof.Machine

/-! ### Bytes taken (R71 to R74) -/

@[simp] theorem State.consumed_zero (s : State) : s.consumed 0 = s := by
  simp [State.consumed]

theorem readU16_consumed {s : State} {a b : Byte} {rest : List Byte} (h : s.port.input = a :: b :: rest) :
    readU16 s = .ok (a ++ b) (s.consumed 2) := by
  have hlo : (s.consumed 1).port.input = b :: rest := State.consumed_input (l := [a]) h
  rw [readU16, seq_bind_ok (readU8_consumed h), seq_bind_ok (readU8_consumed hlo), State.consumed_consumed]
  rfl

theorem readBytes_consumed {s : State} {l rest : List Byte} (h : s.port.input = l ++ rest) :
    readBytes l.length s = .ok l (s.consumed l.length) := by
  rw [readBytes_append l rest s h, State.consumed, h, List.drop_left]

theorem skip_consumed {s : State} {l rest : List Byte} (h : s.port.input = l ++ rest) :
    skip l.length s = .ok () (s.consumed l.length) := by
  rw [skip_append l rest s h, State.consumed, h, List.drop_left]

/-! ### Reading a marker (R212) -/

/-- A byte other than 0xFF is taken, and there is no marker. -/
theorem getMarker_none {s : State} {b : Byte} {rest : List Byte} (hm : s.bits.marker = 0xFF) (hb : b ≠ 0xFF)
    (h : s.port.input = b :: rest) : getMarker s = .ok 0xFF (s.consumed 1) := by
  rw [getMarker, look_bind, if_neg (not_not.2 hm), seq_bind_ok (readU8_consumed h), if_pos hb]
  rfl

/-- The marker next in the stream, after any fill bytes. -/
theorem getMarker_next {s : State} {k : Nat} {c : Byte} {rest : List Byte} (hm : s.bits.marker = 0xFF) (hc : c ≠ 0xFF)
    (h : s.port.input = markerBytes k c ++ rest) :
    getMarker s = .ok c { s.consumed (k + 2) with lastMarker := c, lastMarkerValid := true } := by
  have hff : s.port.input = 0xFF :: (List.replicate k 0xFF ++ c :: rest) := by simpa [markerBytes] using h
  have hcode : (s.consumed 1).port.input = List.replicate k 0xFF ++ c :: rest := State.consumed_input (l := [0xFF]) hff
  have hk : k ≤ (s.consumed 1).port.input.length := by simp [hcode]
  rw [getMarker, look_bind, if_neg (not_not.2 hm), seq_bind_ok (readU8_consumed hff), if_neg (not_not.2 rfl), supplied,
    look_bind, seq_bind_ok (readPastFF_consumed hc hk hcode), State.consumed_consumed, Nat.add_comm 1 (k + 1)]
  rfl

/-- Data bytes, stuffed ones too, are no markers for SeekMarker (R248). -/
theorem seekLoop_data {d : Byte × Nat} {s : State} {rest : List Byte} (h : s.port.input = ecsItem d ++ rest) (n : Nat) :
    seekLoop (n + 1) s = seekLoop n (s.consumed (ecsItem d).length) := by
  unfold ecsItem at h ⊢
  by_cases hd : d.1 = 0xFF
  · rw [if_pos hd] at h ⊢
    have hff : s.port.input = 0xFF :: (List.replicate d.2 0xFF ++ 0x00 :: rest) := by simpa using h
    have hcode : (s.consumed 1).port.input = List.replicate d.2 0xFF ++ 0x00 :: rest := State.consumed_input (l := [0xFF]) hff
    have hk : d.2 ≤ (s.consumed 1).port.input.length := by simp [hcode]
    rw [seekLoop, seq_bind_ok (readU8_consumed hff), if_neg (not_not.2 rfl), supplied, look_bind,
      seq_bind_ok (readPastFF_consumed (by decide) hk hcode), State.consumed_consumed, if_neg (not_not.2 rfl)]
    simp [Nat.add_comm]
  · rw [if_neg hd] at h ⊢
    rw [seekLoop, seq_bind_ok (readU8_consumed h), if_pos hd]
    rfl

theorem seekLoop_marker {s : State} {k : Nat} {m : Byte} {rest : List Byte} (h0 : m ≠ 0) (hff : m ≠ 0xFF)
    (h : s.port.input = markerBytes k m ++ rest) (n : Nat) :
    seekLoop (n + 1) s = .ok () { s.consumed (k + 2) with bits := { s.bits with marker := m } } := by
  have hin : s.port.input = 0xFF :: (List.replicate k 0xFF ++ m :: rest) := by simpa [markerBytes] using h
  have hcode : (s.consumed 1).port.input = List.replicate k 0xFF ++ m :: rest := State.consumed_input (l := [0xFF]) hin
  have hk : k ≤ (s.consumed 1).port.input.length := by simp [hcode]
  rw [seekLoop, seq_bind_ok (readU8_consumed hin), if_neg (not_not.2 rfl), supplied, look_bind,
    seq_bind_ok (readPastFF_consumed hff hk hcode), State.consumed_consumed, if_pos h0, Nat.add_comm 1 (k + 1)]
  rfl

/-- SeekMarker takes the data bytes one after the other, then the marker (R248). -/
theorem seekLoop_ecs {ds : List (Byte × Nat)} {s : State} {k n : Nat} {m : Byte} {rest : List Byte} (h0 : m ≠ 0) (hff : m ≠ 0xFF)
    (hn : ds.length < n) (h : s.port.input = ecsBytes ds ++ (markerBytes k m ++ rest)) :
    seekLoop n s = .ok () { s.consumed ((ecsBytes ds).length + (k + 2)) with bits := { s.bits with marker := m } } := by
  induction ds generalizing s n with
  | nil =>
    obtain ⟨n, rfl⟩ := Nat.exists_eq_add_of_le' hn
    rw [show (ecsBytes []).length + (k + 2) = k + 2 from Nat.zero_add _]
    exact seekLoop_marker h0 hff h n
  | cons d ds ih =>
    obtain ⟨n, rfl⟩ := Nat.exists_eq_add_of_le' (Nat.one_le_of_lt hn)
    have hd : s.port.input = ecsItem d ++ (ecsBytes ds ++ (markerBytes k m ++ rest)) := by simpa [ecsBytes] using h
    have hlen : (ecsBytes (d :: ds)).length = (ecsItem d).length + (ecsBytes ds).length := List.length_append
    rw [seekLoop_data hd, ih (Nat.lt_of_succ_lt_succ hn) (State.consumed_input hd), State.consumed_consumed, hlen, Nat.add_assoc]
    rfl

theorem length_le_ecsBytes (ds : List (Byte × Nat)) : ds.length ≤ (ecsBytes ds).length := by
  have hitem : ∀ d, 1 ≤ (ecsItem d).length := by
    intro d
    unfold ecsItem
    split <;> simp
  induction ds with
  | nil => simp
  | cons d ds ih =>
    have hlen : (ecsBytes (d :: ds)).length = (ecsItem d).length + (ecsBytes ds).length := List.length_append
    have hd := hitem d
    rw [hlen, List.length_cons]
    omega

/-- Settles O44: each way GetMarker can go, and SeekMarker by induction over the data bytes before the marker. -/
theorem markersRead : Obligations.MarkersRead := by
  refine ⟨fun s hm => runUnit_ok (getMarker_latched (s := s.unheld) hm),
    fun s k c rest hm hc h => runUnit_ok (getMarker_next (s := s.unheld) hm hc h),
    fun s b rest hm hb h => runUnit_ok (getMarker_none (s := s.unheld) hm hb h), fun s ds k m rest h0 hff h => runOp_ok ?_⟩
  have hn : ds.length < s.port.input.length := by
    have hle := length_le_ecsBytes ds
    simp only [h, List.length_append, markerBytes, List.length_cons]
    omega
  rw [seekMarker, supplied, look_bind]
  exact seekLoop_ecs (s := s.unheld) h0 hff hn h

/-- With no byte supplied GetMarker waits, or raises at the end of the stream (R71). -/
theorem getMarker_no_byte {s : State} (hm : s.bits.marker = 0xFF) (h : s.port.input = []) :
    getMarker s = .error (if s.port.eos then .raise .endOfStream else .stall) s := by
  rw [getMarker, look_bind, if_neg (not_not.2 hm)]
  exact seq_bind_error (readU8_nil h) _

/-- So it does after a byte 0xFF with nothing behind it. -/
theorem getMarker_lone_ff {s : State} (hm : s.bits.marker = 0xFF) (h : s.port.input = [0xFF]) :
    getMarker s = .error (if s.port.eos then .raise .endOfStream else .stall) (s.consumed 1) := by
  have hrest : (s.consumed 1).port.input = [] := State.consumed_input (l := [0xFF]) h
  rw [getMarker, look_bind, if_neg (not_not.2 hm), seq_bind_ok (readU8_consumed h), if_neg (not_not.2 rfl), supplied, look_bind,
    hrest]
  exact seq_bind_error (readU8_nil hrest) _

/-! ### What a marker instruction answers, phase by phase (R214, R215, R240) -/

section
variable {s t : State} {m : Seq Unit} {code : Byte}

/-- A segment taken to its end: in HEADER `hdr_pad` is set (R214). -/
theorem runOp_segmentMarker_ok (hp : s.phase = .header ∨ s.phase = .frame) (h : m s.unheld = .ok () t) :
    runOp (segmentMarker code m) s =
      .next { t with ctl := { t.ctl with hdrPad := t.ctl.hdrPad || s.phase == .header } } := by
  rcases hp with hp | hp
  · refine (runOp_ok (t := t.setCtl { t.ctl with hdrPad := true }) ?_).trans ?_
    · rw [segmentMarker, atMarker_apply, State.unheld_phase, hp, inHeader, seq_bind_ok h]
      rfl
    · simp [hp, State.setCtl]
  · refine (runOp_ok (t := t) ?_).trans ?_
    · rw [segmentMarker, atMarker_apply, State.unheld_phase, hp, h]
    · rw [hp, show (Phase.frame == Phase.header) = false from rfl, Bool.or_false]

theorem runOp_segmentMarker_raise {e : ErrCode} (hp : s.phase = .header ∨ s.phase = .frame)
    (h : m s.unheld = .error (.raise e) t) : runOp (segmentMarker code m) s = .next (t.takeError e) := by
  refine runOp_raise ?_
  rw [segmentMarker, atMarker_apply, State.unheld_phase]
  rcases hp with hp | hp <;> rw [hp]
  · exact seq_bind_error h _
  · exact h

theorem runOp_frameMarker_frame (hp : s.phase = .frame) : runOp (frameMarker code m) s = runOp m s := by
  rw [runOp, runOp, frameMarker, atMarker_apply, State.unheld_phase, hp]

theorem runOp_frameMarker_header (hp : s.phase = .header) :
    runOp (frameMarker code m) s = .next (s.unheld.takeError .unexpectedMarker) :=
  runOp_raise (by rw [frameMarker, atMarker_apply, State.unheld_phase, hp]; rfl)

theorem runOp_sofMarker_header {progressive : Bool} (hp : s.phase = .header) :
    runOp (sofMarker code progressive) s = runOp (frameHeader progressive) s := by
  rw [runOp, runOp, sofMarker, atMarker_apply, State.unheld_phase, hp]

theorem runOp_sofMarker_frame {progressive : Bool} (hp : s.phase = .frame) :
    runOp (sofMarker code progressive) s = .next (s.unheld.takeError .unexpectedMarker) :=
  runOp_raise (by rw [sofMarker, atMarker_apply, State.unheld_phase, hp]; rfl)

end

/-- Outside phase SOI a SOI is a marker of neither phase (R224). -/
theorem exec_soi {s : State} (hp : s.phase ≠ .soi) : exec .soi s = runOp (segmentMarker 0xD8 (raise .unexpectedMarker)) s := by
  have hp' : s.unheld.phase ≠ .soi := hp
  change runOp soiMarker s = _
  rw [runOp, soiMarker, look_bind, if_neg hp']
  rfl

/-- Outside SCAN so is RSTm (R224). -/
theorem exec_rst {s : State} (hp : s.phase ≠ .scan) (m : BitVec 3) :
    exec (.rst m) s = runOp (segmentMarker (rstCode m) (raise .unexpectedMarker)) s := by
  have hp' : s.unheld.phase ≠ .scan := hp
  change runOp (rstMarker m) s = _
  rw [runOp, rstMarker, look_bind, if_neg hp']
  rfl

/-- Outside SCAN FF 00 is an unknown marker (R225). -/
theorem exec_stuff {s : State} (hp : s.phase ≠ .scan) :
    exec .stuff s = runOp (segmentMarker 0x00 (raise .unknownMarker)) s := by
  have hp' : s.unheld.phase ≠ .scan := hp
  change runOp stuffMarker s = _
  rw [runOp, stuffMarker, look_bind, if_neg hp']
  rfl

/-- Settles O18: every row of the list is a refused marker. -/
theorem refusedProcesses : Obligations.RefusedProcesses := by
  have hrefused (code : Byte) (s : State) (hp : s.phase = .header ∨ s.phase = .frame) :
      runOp (refusedMarker code) s = .next (s.unheld.takeError .unsupportedProcess) := runOp_segmentMarker_raise hp rfl
  intro p hrow
  simp only [List.mem_cons, List.not_mem_nil, or_false] at hrow
  rcases hrow with rfl | rfl | rfl | rfl | rfl | rfl | rfl | rfl | rfl | rfl | rfl | rfl | rfl <;>
    exact ⟨rfl, hrefused _⟩

/-- Settles O19: FF 00 is STUFF and a reserved code RES. -/
theorem unknownMarkers : Obligations.UnknownMarkers := by
  intro s c i hp hc hi
  rcases hc with rfl | hres
  · cases hi
    have hscan : s.phase ≠ .scan := by rcases hp with hp | hp <;> rw [hp] <;> decide
    exact ⟨.inl rfl, (exec_stuff hscan).trans (runOp_segmentMarker_raise hp rfl)⟩
  · cases (decodeCode_of_resCode c hres).symm.trans hi
    exact ⟨.inr rfl, runOp_segmentMarker_raise hp rfl⟩

/-- Settles O20: the markers of FRAME only, those of HEADER only, and SOI and RSTm, which belong to neither. -/
theorem misplacedMarkers : Obligations.MisplacedMarkers := by
  refine ⟨fun s i hp hi => ?_, fun s i hp hi => ?_⟩
  · rcases hi with rfl | rfl | rfl | ⟨m, rfl⟩ | rfl
    · exact runOp_frameMarker_header hp
    · exact runOp_frameMarker_header hp
    · exact runOp_frameMarker_header hp
    · exact (exec_rst (by rw [hp]; decide) m).trans (runOp_segmentMarker_raise (.inl hp) rfl)
    · exact (exec_soi (by rw [hp]; decide)).trans (runOp_segmentMarker_raise (.inl hp) rfl)
  · rcases hi with rfl | rfl | rfl | ⟨m, rfl⟩ | rfl
    · exact runOp_sofMarker_frame hp
    · exact runOp_sofMarker_frame hp
    · exact runOp_sofMarker_frame hp
    · exact (exec_rst (by rw [hp]; decide) m).trans (runOp_segmentMarker_raise (.inr hp) rfl)
    · exact (exec_soi (by rw [hp]; decide)).trans (runOp_segmentMarker_raise (.inr hp) rfl)

/-- Settles O22. -/
theorem imageMarkers : Obligations.ImageMarkers := by
  refine ⟨fun s hp => runOp_ok ?_, fun s hp => (runOp_frameMarker_frame hp).trans rfl⟩
  rw [soiMarker, look_bind, State.unheld_phase, if_pos hp]
  rfl

/-- Settles O24: the length, its check, and the interval. -/
theorem restartIntervalSet : Obligations.RestartIntervalSet := by
  refine ⟨fun s a b rest hp h => ?_, fun s a b rest hp h hne => ?_⟩
  · refine runOp_segmentMarker_ok (t := { s.unheld.consumed 4 with restartInterval := a ++ b }) hp ?_
    have hRi : (s.unheld.consumed 2).port.input = a :: b :: rest := State.consumed_input (l := [0x00, 0x04]) h
    rw [segDri, seq_bind_ok (readU16_consumed (s := s.unheld) h), check_bind, if_neg (by decide),
      seq_bind_ok (readU16_consumed hRi), State.consumed_consumed]
    rfl
  · refine runOp_segmentMarker_raise hp ?_
    rw [segDri, seq_bind_ok (readU16_consumed (s := s.unheld) h), check_bind, if_pos (bne_iff_ne.2 hne)]
    rfl

/-- Settles O25: both fields are read, then checked one after the other. -/
theorem lineCountConfirmed : Obligations.LineCountConfirmed := by
  intro s a b c d rest hp h
  have hNL : (s.unheld.consumed 2).port.input = c :: d :: rest := State.consumed_input (l := [a, b]) h
  have hrun : segDnl s.unheld =
      if (a ++ b : BitVec 16) ≠ 4 then .error (.raise .badDnlLength) (s.unheld.consumed 4)
      else if (c ++ d : BitVec 16) ≠ s.frame.imgY then .error (.raise .badDnlHeight) (s.unheld.consumed 4)
      else .ok () (s.unheld.consumed 4) := by
    rw [segDnl, seq_bind_ok (readU16_consumed (s := s.unheld) h), seq_bind_ok (readU16_consumed hNL), check_bind,
      State.consumed_consumed, look_bind, check_apply]
    simp only [bne_iff_ne]
    rfl
  refine (runOp_frameMarker_frame hp).trans ?_
  split_ifs at hrun ⊢
  · exact runOp_raise hrun
  · exact runOp_raise hrun
  · exact runOp_ok hrun

/-! ### What a piece of a rule leaves unchanged

`Keeps π m` says of a piece of a rule that it leaves the part `π` of the state unchanged, wherever it stops. It is proved once per piece,
for every part that the piece's own updates leave alone. -/

/-- The piece leaves `π` of the state as it was, whether it runs to its end or stops. -/
def Keeps {γ α : Type} (π : State → γ) (m : Seq α) : Prop :=
  ∀ p, Triple (fun s => π s = p) m (fun _ t => π t = p) (fun _ t => π t = p)

section
variable {γ α β : Type} {π : State → γ} {m : Seq α}

theorem keeps_pure (a : α) : Keeps π (pure a) := fun _ => triple_pure fun _ h => h
theorem keeps_look (f : State → α) : Keeps π (look f) := fun _ => triple_look fun _ h => h
theorem keeps_get : Keeps π (get : Seq State) := fun _ => triple_get fun _ h => h
theorem keeps_raise (e : ErrCode) : Keeps π (raise e : Seq α) := fun _ => triple_raise fun _ h => h
theorem keeps_modelFault (f : Fault) : Keeps π (modelFault f : Seq α) := fun _ => triple_modelFault fun _ h => h

theorem keeps_check (c : Bool) (e : ErrCode) : Keeps π (check c e) :=
  fun _ => triple_check (fun _ _ h => h) (fun _ _ h => h)

theorem keeps_upd {f : State → State} (h : ∀ s, π (f s) = π s) : Keeps π (upd f) :=
  fun _ => triple_upd fun s hs => (h s).trans hs

theorem keeps_bind {f : α → Seq β} (hm : Keeps π m) (hf : ∀ a, Keeps π (f a)) : Keeps π (m >>= f) :=
  fun p => triple_bind (hm p) fun a => hf a p

theorem keeps_ite {c : Prop} [Decidable c] {n : Seq α} (hm : Keeps π m) (hn : Keeps π n) : Keeps π (if c then m else n) :=
  fun p => triple_ite (fun _ => hm p) (fun _ => hn p)

theorem keeps_onlyIf {n : Seq Unit} (c : Bool) (hn : Keeps π n) : Keeps π (onlyIf c n) :=
  fun p => triple_onlyIf (fun _ _ h => h) (fun _ => hn p)

theorem keeps_forEach (xs : List α) {f : α → Seq Unit} (h : ∀ x, Keeps π (f x)) : Keeps π (forEach xs f) :=
  fun p => triple_forEach fun x _ => h x p

/-- What a rule leaves unchanged, whatever it answers (R410, R71). -/
theorem Keeps.runOp {n : Seq Unit} (hn : Keeps π n) (hunheld : ∀ s, π s.unheld = π s) (herror : ∀ e s, π (s.takeError e) = π s)
    (hhold : ∀ k s, π (s.hold k) = π s) {s t : State} (h : runOp n s = .next t) : π t = π s := by
  rcases (hn (π s)).runOp (hunheld s) h with ht | ⟨e, u, hu, rfl⟩ | ⟨k, rfl⟩
  · exact ht
  · exact (herror e u).trans hu
  · exact hhold k s

end

/-! ### The input and the tables -/

/-- The part does not show the bytes supplied and `byte_pos` (R71). -/
def IgnoresInput {γ : Type} (π : State → γ) : Prop :=
  ∀ s l n, π { s with port := { s.port with input := l }, bytePos := n } = π s

section
variable {γ : Type} {π : State → γ} (h : IgnoresInput π)
include h

theorem keeps_readU8 : Keeps π readU8 := by
  intro p s hs
  cases hi : s.port.input with
  | nil => rw [readU8_nil hi]; exact hs
  | cons b rest => rw [readU8_cons hi]; exact (h s _ _).trans hs

theorem keeps_readU16 : Keeps π readU16 :=
  keeps_bind (keeps_readU8 h) fun _ => keeps_bind (keeps_readU8 h) fun _ => keeps_pure _

theorem keeps_readPastFF : (n : Nat) → Keeps π (readPastFF n)
  | 0 => keeps_readU8 h
  | n + 1 => keeps_bind (keeps_readU8 h) fun _ => keeps_ite (keeps_readPastFF n) (keeps_pure _)

theorem keeps_skip : (n : Nat) → Keeps π (skip n)
  | 0 => keeps_pure _
  | n + 1 => keeps_bind (keeps_readU8 h) fun _ => keeps_skip n

theorem keeps_readBytes : (n : Nat) → Keeps π (readBytes n)
  | 0 => keeps_pure _
  | n + 1 => keeps_bind (keeps_readU8 h) fun _ => keeps_bind (keeps_readBytes n) fun _ => keeps_pure _

end

section
variable {γ : Type} {π : State → γ}

theorem keeps_loadedHuff (tc : Fin 2) (th : Fin 4) : Keeps π (loadedHuff tc th) := by
  intro p s hs
  rcases loadedHuff_cases tc th s with ⟨-, e⟩ | ⟨-, e⟩ <;> rw [e] <;> exact hs

theorem keeps_loadedQt (q : Fin 4) : Keeps π (loadedQt q) := by
  intro p s hs
  rcases loadedQt_cases q s with ⟨-, e⟩ | ⟨-, e⟩ <;> rw [e] <;> exact hs

theorem keeps_loadedFastAc (th : Fin 4) (c : Nat) : Keeps π (loadedFastAc th c) := by
  intro p s hs
  unfold loadedFastAc
  cases (s.huffAt 1 th).loaded <;> exact hs

theorem keeps_planeRead (c : Fin 4) (y x : Nat) : Keeps π (planeRead c y x) := by
  intro p s hs
  rcases planeRead_cases c y x s with ⟨v, -, -, e⟩ | ⟨f, e⟩ <;> rw [e] <;> exact hs

theorem keeps_coefRead (c : Fin 4) (b i : Nat) : Keeps π (coefRead c b i) := by
  intro p s hs
  rcases coefRead_cases c b i s with ⟨v, -, -, e⟩ | ⟨f, e⟩ <;> rw [e] <;> exact hs

theorem keeps_peekFastAc (th : Fin 4) : Keeps π (peekFastAc th) :=
  keeps_bind (keeps_look _) fun _ => keeps_loadedFastAc _ _

theorem keeps_blockCoef (z : Fin 64) : Keeps π (blockCoef z) :=
  keeps_bind keeps_get fun _ => keeps_bind (keeps_coefRead _ _ _) fun _ => keeps_pure _

theorem keeps_planeWrite (h : ∀ (s : State) c r, π (s.setComp c r) = π s) (c : Fin 4) (y x : Nat) (v : Byte) :
    Keeps π (planeWrite c y x v) := by
  intro p s hs
  rcases planeWrite_cases c y x v s with ⟨-, e⟩ | ⟨-, e⟩ <;> rw [e]
  · exact (h s _ _).trans hs
  · exact hs

theorem keeps_coefWrite (h : ∀ (s : State) c r, π (s.setComp c r) = π s) (c : Fin 4) (b i : Nat) (v : BitVec 16) :
    Keeps π (coefWrite c b i v) := by
  intro p s hs
  rcases coefWrite_cases c b i v s with ⟨-, e⟩ | ⟨-, e⟩ <;> rw [e]
  · exact (h s _ _).trans hs
  · exact hs

end

/-! ### The bit machine and the block decoder -/

/-- The part does not show what the decoding of blocks writes: the input, the bit machine, the component records, the scan
registers and the block registers (41_bit_entropy.md, 43_block_decoder.md). -/
structure IgnoresBlocks {γ : Type} (π : State → γ) : Prop where
  input : IgnoresInput π
  bits : ∀ (s : State) b, π (s.setBits b) = π s
  comp : ∀ (s : State) c r, π (s.setComp c r) = π s
  scan : ∀ (s : State) c, π (s.setScan c) = π s
  blk : ∀ (s : State) b, π (s.setBlk b) = π s

section
variable {γ : Type} {π : State → γ} (h : IgnoresBlocks π)
include h

theorem keeps_appendByte (b : Byte) : Keeps π (appendByte b) := keeps_upd fun _ => h.bits _ _
theorem keeps_latchMarker (c : Byte) : Keeps π (latchMarker c) := keeps_upd fun _ => h.bits _ _
theorem keeps_consume (n : Nat) : Keeps π (consume n) := keeps_upd fun _ => h.bits _ _

theorem keeps_afterFF : Keeps π afterFF :=
  keeps_bind (keeps_look _) fun _ => keeps_bind (keeps_readPastFF h.input _) fun _ => keeps_ite
    (keeps_bind (keeps_appendByte h _) fun _ => keeps_pure _) (keeps_bind (keeps_latchMarker h _) fun _ => keeps_pure _)

theorem keeps_fillRound : Keeps π fillRound :=
  keeps_bind (keeps_look _) fun _ => keeps_ite
    (keeps_bind (keeps_appendByte h _) fun _ => keeps_pure _)
    (keeps_bind (keeps_readU8 h.input) fun _ => keeps_ite (keeps_afterFF h) <|
      keeps_bind (keeps_appendByte h _) fun _ => keeps_pure _)

theorem keeps_fillLoop : (n : Nat) → Keeps π (fillLoop n)
  | 0 => keeps_pure _
  | n + 1 => keeps_bind (keeps_fillRound h) fun _ => keeps_bind (keeps_look _) fun _ => keeps_ite (keeps_fillLoop n) (keeps_pure _)

theorem keeps_fillBits : Keeps π fillBits :=
  keeps_bind (keeps_look _) fun _ => keeps_ite (keeps_modelFault _) (keeps_fillLoop h _)

theorem keeps_fillBelow (n : Nat) : Keeps π (fillBelow n) :=
  keeps_bind (keeps_look _) fun _ => keeps_onlyIf _ (keeps_fillBits h)

theorem keeps_takeCode (n : Nat) : Keeps π (takeCode n) :=
  keeps_bind (keeps_look _) fun _ => keeps_bind (keeps_check _ _) fun _ => keeps_consume h _

theorem keeps_decodeFast (T : HuffTable) (i : Nat) : Keeps π (decodeFast T i) :=
  keeps_bind (keeps_takeCode h _) fun _ => keeps_pure _

theorem keeps_decodeSlow (T : HuffTable) : Keeps π (decodeSlow T) := by
  refine keeps_bind (keeps_look _) fun temp => ?_
  generalize slowLength T temp _ = k
  exact keeps_bind (keeps_check _ _) fun _ => keeps_bind (keeps_look _) fun _ => keeps_bind (keeps_check _ _) fun _ =>
    keeps_bind (keeps_look _) fun _ => keeps_bind (keeps_check _ _) fun _ => keeps_bind (keeps_consume h _) fun _ => keeps_pure _

theorem keeps_decodeHuffman (tc : Fin 2) (th : Fin 4) : Keeps π (decodeHuffman tc th) :=
  keeps_bind (keeps_fillBelow h _) fun _ => keeps_bind (keeps_loadedHuff _ _) fun _ => keeps_bind (keeps_look _) fun _ =>
    keeps_ite (keeps_decodeFast h _ _) (keeps_decodeSlow h _)

theorem keeps_rawBits {α : Type} (n : Nat) (f : Nat → α) (d : α) : Keeps π (rawBits n f d) :=
  keeps_bind (keeps_fillBelow h n) fun _ => keeps_bind (keeps_look _) fun _ => keeps_ite (keeps_pure _) <|
    keeps_bind (keeps_look _) fun _ => keeps_bind (keeps_consume h n) fun _ => keeps_pure _

theorem keeps_setK (f : Nat → Nat) : Keeps π (setK f) := keeps_upd fun _ => h.blk _ _
theorem keeps_endBlock : Keeps π endBlock := keeps_upd fun _ => h.blk _ _
theorem keeps_putData (z : Fin 64) (v : BitVec 16) : Keeps π (putData z v) := keeps_upd fun _ => h.blk _ _
theorem keeps_startBand : Keeps π startBand := keeps_upd fun _ => h.blk _ _
theorem keeps_idct : Keeps π idct := keeps_upd fun _ => h.blk _ _
theorem keeps_setEobRun (f : BitVec 32 → BitVec 32) : Keeps π (setEobRun f) := keeps_upd fun _ => h.scan _ _

theorem keeps_advanceRun (r : Nat) : Keeps π (advanceRun r) :=
  keeps_bind (keeps_setK h _) fun _ => keeps_bind (keeps_look _) fun _ => keeps_bind (keeps_setK h _) fun _ => keeps_pure _

theorem keeps_dcPredict (t : Nat) : Keeps π (dcPredict t) :=
  keeps_bind (keeps_ite (keeps_pure _) (keeps_rawBits h _ _ _)) fun _ => keeps_upd fun _ => h.comp _ _ _

theorem keeps_dcBaseline (t : Nat) : Keeps π (dcBaseline t) :=
  keeps_bind (keeps_dcPredict h t) fun _ => keeps_bind (keeps_look _) fun _ => keeps_bind (keeps_loadedQt _) fun _ =>
    keeps_bind (keeps_upd fun _ => h.blk _ _) fun _ => keeps_bind (keeps_look _) fun _ => keeps_putData h _ _

theorem keeps_dcFirstSymbol (t : Nat) : Keeps π (dcFirstSymbol t) :=
  keeps_bind (keeps_dcPredict h t) fun _ => keeps_bind keeps_get fun _ => keeps_coefWrite h.comp _ _ _ _

theorem keeps_dcCategory : Keeps π dcCategory :=
  keeps_bind (keeps_look _) fun _ => keeps_bind (keeps_decodeHuffman h _ _) fun _ => keeps_bind (keeps_check _ _) fun _ =>
    keeps_pure _

theorem keeps_dcRefineWith {readBit : Seq Bool} (hbit : Keeps π readBit) : Keeps π (dcRefineWith readBit) :=
  keeps_bind keeps_get fun _ => keeps_bind (keeps_coefRead _ _ _) fun _ => keeps_bind hbit fun _ =>
    keeps_onlyIf _ (keeps_coefWrite h.comp _ _ _ _)

theorem keeps_putCoef (z : Fin 64) (v : Int) : Keeps π (putCoef z v) :=
  keeps_bind (keeps_look _) fun _ => keeps_bind (keeps_loadedQt _) fun _ => keeps_putData h _ _

theorem keeps_acCoef (r c : Nat) : Keeps π (acCoef r c) :=
  keeps_bind (keeps_advanceRun h _) fun _ => keeps_bind (keeps_rawBits h _ _ _) fun _ => keeps_putCoef h _ _

theorem keeps_acSymbol (rs : Byte) : Keeps π (acSymbol rs) :=
  keeps_ite (keeps_ite (keeps_setK h _) (keeps_endBlock h)) (keeps_acCoef h _ _)

theorem keeps_fastAdvance (e : BitVec 16) : Keeps π (fastAdvance e) :=
  keeps_bind (keeps_setK h _) fun _ => keeps_bind (keeps_takeCode h _) fun _ => keeps_advanceRun h _

theorem keeps_acRound : Keeps π acRound :=
  keeps_bind (keeps_fillBelow h _) fun _ => keeps_bind (keeps_look _) fun _ => keeps_bind (keeps_peekFastAc _) fun _ => keeps_ite
    (keeps_bind (keeps_fastAdvance h _) fun _ => keeps_putCoef h _ _)
    (keeps_bind (keeps_decodeHuffman h _ _) fun _ => keeps_acSymbol h _)

theorem keeps_acLoop : (n : Nat) → Keeps π (acLoop n)
  | 0 => keeps_pure _
  | n + 1 => keeps_bind (keeps_acRound h) fun _ => keeps_bind (keeps_look _) fun _ => keeps_ite (keeps_pure _) (keeps_acLoop n)

theorem keeps_blkBaseline : Keeps π blkBaseline :=
  keeps_bind (keeps_fillBelow h _) fun _ => keeps_bind (keeps_dcCategory h) fun _ => keeps_bind (keeps_dcBaseline h _) fun _ =>
    keeps_acLoop h _

theorem keeps_blkDcFirst : Keeps π blkDcFirst :=
  keeps_bind keeps_get fun _ => keeps_bind (keeps_check _ _) fun _ => keeps_bind (keeps_fillBelow h _) fun _ =>
    keeps_bind (keeps_forEach _ fun _ => keeps_coefWrite h.comp _ _ _ _) fun _ => keeps_bind (keeps_dcCategory h) fun _ =>
    keeps_dcFirstSymbol h _

theorem keeps_blkDcRefine : Keeps π blkDcRefine :=
  keeps_bind keeps_get fun _ => keeps_bind (keeps_check _ _) fun _ => keeps_bind (keeps_fillBelow h _) fun _ =>
    keeps_dcRefineWith h (keeps_rawBits h _ _ _)

theorem keeps_putBlockCoef (z : Fin 64) (v : Int) : Keeps π (putBlockCoef z v) :=
  keeps_bind keeps_get fun _ => keeps_coefWrite h.comp _ _ _ _

theorem keeps_acpCoef (r c : Nat) : Keeps π (acpCoef r c) :=
  keeps_bind (keeps_advanceRun h _) fun _ => keeps_bind (keeps_rawBits h _ _ _) fun _ => keeps_bind (keeps_look _) fun _ =>
    keeps_putBlockCoef h _ _

theorem keeps_addEobBits (r : Nat) : Keeps π (addEobBits r) :=
  keeps_ite (keeps_pure _) (keeps_bind (keeps_rawBits h _ _ _) fun _ => keeps_setEobRun h _)

theorem keeps_acpEobrun (r : Nat) : Keeps π (acpEobrun r) :=
  keeps_bind (keeps_setEobRun h _) fun _ => keeps_bind (keeps_addEobBits h _) fun _ => keeps_bind (keeps_setEobRun h _) fun _ =>
    keeps_endBlock h

theorem keeps_acpSymbol (rs : Byte) : Keeps π (acpSymbol rs) :=
  keeps_ite (keeps_ite (keeps_setK h _) (keeps_acpEobrun h _)) (keeps_acpCoef h _ _)

theorem keeps_acpRound : Keeps π acpRound :=
  keeps_bind (keeps_fillBelow h _) fun _ => keeps_bind (keeps_look _) fun _ => keeps_bind (keeps_peekFastAc _) fun _ => keeps_ite
    (keeps_bind (keeps_fastAdvance h _) fun _ => keeps_bind (keeps_look _) fun _ => keeps_putBlockCoef h _ _)
    (keeps_bind (keeps_decodeHuffman h _ _) fun _ => keeps_acpSymbol h _)

theorem keeps_acpLoop : (n : Nat) → Keeps π (acpLoop n)
  | 0 => keeps_pure _
  | n + 1 => keeps_bind (keeps_acpRound h) fun _ => keeps_bind (keeps_look _) fun _ => keeps_ite (keeps_pure _) (keeps_acpLoop n)

theorem keeps_blkAcFirst : Keeps π blkAcFirst :=
  keeps_bind (keeps_look _) fun _ => keeps_ite (keeps_setEobRun h _) (keeps_bind (keeps_startBand h) fun _ => keeps_acpLoop h _)

theorem keeps_refineBit (z : Fin 64) : Keeps π (refineBit z) :=
  keeps_bind keeps_get fun _ => keeps_bind (keeps_coefRead _ _ _) fun _ => keeps_bind (keeps_rawBits h _ _ _) fun _ =>
    keeps_onlyIf _ (keeps_coefWrite h.comp _ _ _ _)

theorem keeps_advance (v : Int) : (n r : Nat) → Keeps π (advance v n r)
  | 0, _ => keeps_pure _
  | n + 1, r => keeps_bind (keeps_look _) fun _ => keeps_ite (keeps_pure _) <|
      keeps_bind (keeps_advanceRun h _) fun _ => keeps_bind (keeps_blockCoef _) fun _ => keeps_ite
        (keeps_bind (keeps_refineBit h _) fun _ => keeps_advance v n r)
        (keeps_ite (keeps_putBlockCoef h _ _) (keeps_advance v n (r - 1)))

theorem keeps_acrCoef (r : Nat) : Keeps π (acrCoef r) :=
  keeps_bind (keeps_rawBits h _ _ _) fun _ => keeps_bind (keeps_look _) fun _ => keeps_advance h _ _ _

theorem keeps_acrEobrun (r : Nat) : Keeps π (acrEobrun r) :=
  keeps_bind (keeps_setEobRun h _) fun _ => keeps_bind (keeps_addEobBits h _) fun _ => keeps_advance h _ _ _

theorem keeps_acrSymbol (rs : Byte) : Keeps π (acrSymbol rs) :=
  keeps_ite (keeps_ite (keeps_advance h _ _ _) (keeps_acrEobrun h _)) (keeps_ite (keeps_acrCoef h _) (keeps_raise _))

theorem keeps_acrRound : Keeps π acrRound :=
  keeps_bind (keeps_look _) fun _ => keeps_bind (keeps_decodeHuffman h _ _) fun _ => keeps_acrSymbol h _

theorem keeps_acrLoop : (n : Nat) → Keeps π (acrLoop n)
  | 0 => keeps_pure _
  | n + 1 => keeps_bind (keeps_acrRound h) fun _ => keeps_bind (keeps_look _) fun _ => keeps_ite (keeps_pure _) (keeps_acrLoop n)

theorem keeps_refineBand : (ks : List Nat) → Keeps π (refineBand ks)
  | [] => keeps_pure _
  | _ :: ks => keeps_bind (keeps_blockCoef _) fun _ => keeps_bind (keeps_onlyIf _ (keeps_refineBit h _)) fun _ =>
      keeps_refineBand ks

theorem keeps_blkAcRefine : Keeps π blkAcRefine :=
  keeps_bind (keeps_look _) fun _ => keeps_ite
    (keeps_bind (keeps_setEobRun h _) fun _ => keeps_bind (keeps_look _) fun _ => keeps_refineBand h _)
    (keeps_bind (keeps_startBand h) fun _ => keeps_acrLoop h _)

theorem keeps_dequantBlock (c : Fin 4) (b : Nat) (Q : Vector (BitVec 16) 64) : Keeps π (dequantBlock c b Q) :=
  keeps_forEach _ fun _ => keeps_bind (keeps_coefRead _ _ _) fun _ => keeps_upd fun _ => h.blk _ _

theorem keeps_placeBlock (c : Fin 4) (gx gy : Nat) : Keeps π (placeBlock c gx gy) :=
  keeps_bind (keeps_look _) fun _ => keeps_forEach _ fun _ => keeps_planeWrite h.comp _ _ _ _

theorem keeps_runBlock : Keeps π runBlock :=
  keeps_bind (keeps_look _) fun _ => keeps_ite
    (keeps_bind (keeps_blkBaseline h) fun _ => keeps_bind (keeps_idct h) fun _ => keeps_bind keeps_get fun _ =>
      keeps_placeBlock h _ _ _) <|
    keeps_ite (keeps_blkDcFirst h) <| keeps_ite (keeps_blkDcRefine h) <| keeps_ite (keeps_blkAcFirst h) (keeps_blkAcRefine h)

end

/-! ### Marker reading and the segments -/

section
variable {γ : Type} {π : State → γ} (hin : IgnoresInput π)
include hin

theorem keeps_getMarker (hbits : ∀ (s : State) m, π (s.setBits { s.bits with marker := m }) = π s)
    (hlast : ∀ (s : State) m, π { s with lastMarker := m, lastMarkerValid := true } = π s) : Keeps π getMarker := by
  have hnote (x : Byte) : Keeps π (noteMarker x) := keeps_bind (keeps_upd fun s => hlast s x) fun _ => keeps_pure _
  exact keeps_bind (keeps_look _) fun _ => keeps_ite
    (keeps_bind (keeps_upd fun s => hbits s _) fun _ => hnote _)
    (keeps_bind (keeps_readU8 hin) fun _ => keeps_ite (keeps_pure _) <|
      keeps_bind (keeps_look _) fun _ => keeps_bind (keeps_readPastFF hin _) fun _ => hnote _)

theorem keeps_seekLoop (hbits : ∀ (s : State) m, π (s.setBits { s.bits with marker := m }) = π s) : (n : Nat) → Keeps π (seekLoop n)
  | 0 => keeps_bind (keeps_readU8 hin) fun _ => keeps_pure _
  | n + 1 => keeps_bind (keeps_readU8 hin) fun _ => keeps_ite (keeps_seekLoop hbits n) <|
      keeps_bind (keeps_look _) fun _ => keeps_bind (keeps_readPastFF hin _) fun _ =>
        keeps_ite (keeps_upd fun s => hbits s _) (keeps_seekLoop hbits n)

theorem keeps_segDqt (hqt : ∀ (s : State) q i v, π (s.setQt q i v) = π s) (hload : ∀ (s : State) q, π (s.setQtLoaded q) = π s) :
    Keeps π segDqt := by
  have hentry (p : Nat) : Keeps π (dqtEntry p) :=
    keeps_ite (keeps_readU16 hin) (keeps_bind (keeps_readU8 hin) fun _ => keeps_pure _)
  have hentries (p : Nat) (q : Fin 4) (ks : List Nat) : Keeps π (dqtEntries p q ks) := by
    induction ks with
    | nil => exact keeps_pure _
    | cons k ks ih => exact keeps_bind (hentry p) fun _ => keeps_bind (keeps_upd fun s => hqt s _ _ _) fun _ => ih
  have htable : Keeps π dqtTable :=
    keeps_bind (keeps_readU8 hin) fun _ => keeps_bind (keeps_check _ _) fun _ => keeps_bind (keeps_check _ _) fun _ =>
      keeps_bind (hentries _ _ _) fun _ => keeps_bind (keeps_upd fun s => hload s _) fun _ => keeps_pure _
  have hloop (n : Nat) : ∀ L, Keeps π (dqtLoop n L) := by
    induction n with
    | zero => exact fun _ => keeps_pure _
    | succ n ih => exact fun _ => keeps_ite (keeps_bind htable fun _ => ih _) (keeps_pure _)
  exact keeps_bind (keeps_readU16 hin) fun _ => keeps_bind (hloop _ _) fun _ => keeps_check _ _

theorem keeps_segDht (hhuff : ∀ (s : State) tc th T, π (s.setHuff tc th T) = π s)
    (hfast : ∀ (s : State) th f, π (s.setFastAc th f) = π s) : Keeps π segDht := by
  have hvalues (tc : Fin 2) (th : Fin 4) (n : Nat) : ∀ i, Keeps π (dhtValues tc th i n) := by
    induction n with
    | zero => exact fun _ => keeps_pure _
    | succ n ih => exact fun i => keeps_bind (keeps_readU8 hin) fun _ => keeps_bind (keeps_upd fun s => hhuff s _ _ _) fun _ => ih _
  have hbuild (tc : Fin 2) (th : Fin 4) (counts : Vector Byte 16) : Keeps π (hufBuild tc th counts) :=
    keeps_bind (keeps_look _) fun _ => keeps_ite (keeps_modelFault _) <|
      keeps_bind (keeps_upd fun s => hhuff s _ _ _) fun _ => keeps_bind (keeps_check _ _) fun _ => keeps_upd fun s => hhuff s _ _ _
  have hfastac (th : Fin 4) : Keeps π (fastacBuild th) :=
    keeps_bind (keeps_loadedHuff _ _) fun _ => keeps_upd fun s => hfast s _ _
  have htable : Keeps π dhtTable := by
    refine keeps_bind (keeps_readU8 hin) fun q => keeps_bind (keeps_check _ _) fun _ => keeps_bind (keeps_readBytes hin 16) fun l => ?_
    generalize countsOf l = counts
    exact keeps_bind (keeps_check _ _) fun _ => keeps_bind (keeps_upd fun s => hhuff s _ _ _) fun _ =>
      keeps_bind (hvalues _ _ _ _) fun _ => keeps_bind (hbuild _ _ counts) fun _ =>
        keeps_bind (keeps_onlyIf _ (hfastac _)) fun _ => keeps_pure _
  have hloop (n : Nat) : ∀ L, Keeps π (dhtLoop n L) := by
    induction n with
    | zero => exact fun _ => keeps_pure _
    | succ n ih => exact fun _ => keeps_ite (keeps_bind htable fun _ => ih _) (keeps_pure _)
  exact keeps_bind (keeps_readU16 hin) fun _ => keeps_bind (hloop _ _) fun _ => keeps_check _ _

theorem keeps_segDri (h : ∀ (s : State) v, π { s with restartInterval := v } = π s) : Keeps π segDri :=
  keeps_bind (keeps_readU16 hin) fun _ => keeps_bind (keeps_check _ _) fun _ => keeps_bind (keeps_readU16 hin) fun _ =>
    keeps_upd fun s => h s _

theorem keeps_segDnl : Keeps π segDnl :=
  keeps_bind (keeps_readU16 hin) fun _ => keeps_bind (keeps_readU16 hin) fun _ => keeps_bind (keeps_check _ _) fun _ =>
    keeps_bind (keeps_look _) fun _ => keeps_check _ _

theorem keeps_recogniseJfif (h : ∀ (s : State) f, π (s.setFlags f) = π s) (L : Nat) : Keeps π (recogniseJfif L) :=
  keeps_ite (keeps_bind (keeps_readBytes hin _) fun _ => keeps_bind (keeps_onlyIf _ (keeps_upd fun s => h s _)) fun _ =>
    keeps_pure _) (keeps_pure _)

theorem keeps_recogniseAdobe (h : ∀ (s : State) f, π (s.setFlags f) = π s) (L : Nat) : Keeps π (recogniseAdobe L) := by
  have hfields : Keeps π adobeFields :=
    keeps_bind (keeps_readU8 hin) fun _ => keeps_bind (keeps_readU16 hin) fun _ => keeps_bind (keeps_readU16 hin) fun _ =>
      keeps_bind (keeps_readU8 hin) fun _ => keeps_upd fun s => h s _
  exact keeps_ite (keeps_bind (keeps_readBytes hin _) fun _ => keeps_ite (keeps_bind hfields fun _ => keeps_pure _)
    (keeps_pure _)) (keeps_pure _)

theorem keeps_segApp {recognise : Nat → Seq Nat} (h : ∀ L, Keeps π (recognise L)) : Keeps π (segApp recognise) :=
  keeps_bind (keeps_readU16 hin) fun _ => keeps_bind (keeps_check _ _) fun _ => keeps_bind (h _) fun _ => keeps_skip hin _

end

/-! ### The pieces of the frame and scan headers -/

section
variable {γ : Type} {π : State → γ} (hin : IgnoresInput π)

include hin in
theorem keeps_sofFields (hframe : ∀ (s : State) f, π (s.setFrame f) = π s) : Keeps π sofFields := by
  have hupd (f : Frame → Frame) : Keeps π (updFrame f) := keeps_upd fun s => hframe s _
  exact keeps_bind (keeps_readU16 hin) fun _ => keeps_bind (keeps_check _ _) fun _ =>
    keeps_bind (keeps_readU8 hin) fun _ => keeps_bind (keeps_check _ _) fun _ =>
    keeps_bind (keeps_readU16 hin) fun _ => keeps_bind (hupd _) fun _ => keeps_bind (keeps_check _ _) fun _ =>
    keeps_bind (keeps_readU16 hin) fun _ => keeps_bind (hupd _) fun _ => keeps_bind (keeps_check _ _) fun _ =>
    keeps_bind (keeps_readU8 hin) fun _ => keeps_bind (keeps_check _ _) fun _ => keeps_bind (hupd _) fun _ => keeps_check _ _

include hin in
theorem keeps_sofComponents (hcomp : ∀ (s : State) c r, π (s.setComp c r) = π s)
    (hrgb : ∀ (s : State) n, π (s.setFlags { s.flags with rgbIds := n }) = π s) : Keeps π sofComponents := by
  have hupd (i : Fin 4) (f : Comp → Comp) : Keeps π (updComp i f) := keeps_upd fun s => hcomp s _ _
  have hone (i : Fin 4) : Keeps π (sofComponent i) :=
    keeps_bind (keeps_readU8 hin) fun _ => keeps_bind (hupd _ _) fun _ => keeps_bind (keeps_look _) fun _ =>
      keeps_bind (keeps_onlyIf _ (keeps_upd fun s => hrgb s _)) fun _ =>
      keeps_bind (keeps_readU8 hin) fun _ => keeps_bind (hupd _ _) fun _ => keeps_bind (keeps_check _ _) fun _ =>
      keeps_bind (hupd _ _) fun _ => keeps_bind (keeps_check _ _) fun _ =>
      keeps_bind (keeps_readU8 hin) fun _ => keeps_bind (keeps_check _ _) fun _ => hupd _ _
  exact keeps_bind (keeps_upd fun s => hrgb s _) fun _ => keeps_bind (keeps_look _) fun _ => keeps_forEach _ hone

theorem keeps_sofSizeCheck : Keeps π sofSizeCheck := keeps_bind (keeps_look _) fun _ => keeps_check _ _

theorem keeps_sofSampling (hframe : ∀ (s : State) f, π (s.setFrame f) = π s) : Keeps π sofSampling :=
  keeps_bind (keeps_look _) fun _ => keeps_bind (keeps_look _) fun _ => keeps_bind (keeps_upd fun s => hframe s _) fun _ =>
    keeps_bind (keeps_look _) fun _ => keeps_check _ _

theorem keeps_sofGeometry (hframe : ∀ (s : State) f, π (s.setFrame f) = π s)
    (hcomp : ∀ (s : State) c r, π (s.setComp c r) = π s) : Keeps π sofGeometry :=
  keeps_bind (keeps_upd fun s => hframe s _) fun _ => keeps_bind (keeps_look _) fun _ =>
    keeps_forEach _ fun _ => keeps_upd fun s => hcomp s _ _

theorem keeps_sofNeeds : (l : List (Fin 4)) → (total : Nat) → Keeps π (sofNeeds l total)
  | [], _ => keeps_pure _
  | _ :: rest, _ => keeps_bind (keeps_look _) fun _ => keeps_bind (keeps_look _) fun _ => keeps_bind (keeps_check _ _) fun _ =>
      keeps_sofNeeds rest _

theorem keeps_sofAllocate (halloc : ∀ s : State, π s.allocate = π s) : Keeps π sofAllocate :=
  keeps_bind (keeps_look _) fun _ => keeps_bind (keeps_sofNeeds _ _) fun _ => keeps_bind (keeps_look _) fun _ =>
    keeps_bind (keeps_check _ _) fun _ => keeps_upd halloc

include hin in
theorem keeps_frameHeader (hframe : ∀ (s : State) f, π (s.setFrame f) = π s) (hcomp : ∀ (s : State) c r, π (s.setComp c r) = π s)
    (hrgb : ∀ (s : State) n, π (s.setFlags { s.flags with rgbIds := n }) = π s) (halloc : ∀ s : State, π s.allocate = π s)
    (hend : ∀ s : State, π s.completeFrame = π s) (progressive : Bool) : Keeps π (frameHeader progressive) :=
  keeps_bind (keeps_upd fun s => hframe s _) fun _ => keeps_bind (keeps_sofFields hin hframe) fun _ =>
    keeps_bind (keeps_sofComponents hin hcomp hrgb) fun _ => keeps_bind keeps_sofSizeCheck fun _ =>
    keeps_bind (keeps_sofSampling hframe) fun _ => keeps_bind (keeps_sofGeometry hframe hcomp) fun _ =>
    keeps_bind (keeps_sofAllocate halloc) fun _ => keeps_upd hend

end

/-- The part does not show what a scan header writes before the scan starts: the input, the scan registers and the table ids of the
component records (R241 to R244). -/
structure IgnoresBindings {γ : Type} (π : State → γ) : Prop where
  input : IgnoresInput π
  scan : ∀ (s : State) c, π (s.setScan c) = π s
  hd : ∀ (s : State) c n, π (s.setComp c { s.comp.get c with hd := n }) = π s
  ha : ∀ (s : State) c n, π (s.setComp c { s.comp.get c with ha := n }) = π s

section
variable {γ : Type} {π : State → γ} (h : IgnoresBindings π)

include h in
theorem keeps_sosCount : Keeps π sosCount :=
  keeps_bind (keeps_readU16 h.input) fun _ => keeps_bind (keeps_readU8 h.input) fun _ =>
    keeps_bind (keeps_upd fun s => h.scan s _) fun _ => keeps_bind (keeps_look _) fun _ => keeps_bind (keeps_check _ _) fun _ =>
    keeps_bind (keeps_check _ _) fun _ => keeps_pure _

include h in
theorem keeps_sosBinding (j : Fin 4) : Keeps π (sosBinding j) := by
  refine keeps_bind (keeps_readU8 h.input) fun _ => keeps_bind (keeps_readU8 h.input) fun _ => keeps_bind (keeps_look _) fun w => ?_
  cases w with
  | none => exact keeps_raise _
  | some w =>
    exact keeps_bind (keeps_upd fun s => h.hd s w _) fun _ => keeps_bind (keeps_check _ _) fun _ =>
      keeps_bind (keeps_upd fun s => h.ha s w _) fun _ => keeps_bind (keeps_check _ _) fun _ => keeps_upd fun s => h.scan s _

include h in
theorem keeps_sosParameters : Keeps π sosParameters := by
  have hupd (f : Scan → Scan) : Keeps π (updScan f) := keeps_upd fun s => h.scan s _
  have hsequential : Keeps π sosSequential :=
    keeps_bind (keeps_look _) fun _ => keeps_bind (keeps_check _ _) fun _ => keeps_bind (keeps_check _ _) fun _ =>
      keeps_bind (keeps_look _) fun _ => keeps_bind (keeps_check _ _) fun _ => hupd _
  exact keeps_bind (keeps_readU8 h.input) fun _ => keeps_bind (hupd _) fun _ => keeps_bind (keeps_readU8 h.input) fun _ =>
    keeps_bind (hupd _) fun _ => keeps_bind (keeps_readU8 h.input) fun _ => keeps_bind (hupd _) fun _ =>
    keeps_bind (keeps_look _) fun _ => keeps_ite (keeps_bind (keeps_look _) fun _ => keeps_check _ _) hsequential

theorem keeps_sosTables (j : Fin 4) : Keeps π (sosTables j) :=
  keeps_bind (keeps_look _) fun _ => keeps_bind (keeps_look _) fun _ => keeps_bind (keeps_check _ _) fun _ =>
    keeps_bind (keeps_look _) fun _ => keeps_check _ _

include h in
/-- The scan header up to the start of the scan, which ends it. -/
theorem triple_startOfScan {Q : State → Prop} {p : γ} (hstart : ∀ s, π s = p → Q s.startScan) :
    Triple (fun s => π s = p) startOfScan (fun _ => Q) (fun _ t => π t = p) :=
  triple_bind (keeps_sosCount h p) fun _ => triple_bind (keeps_forEach _ (keeps_sosBinding h) p) fun _ =>
    triple_bind (keeps_sosParameters h p) fun _ => triple_bind (keeps_forEach _ keeps_sosTables p) fun _ => triple_upd hstart

end

/-- A marker by phase: what its rules and the latch leave unchanged. -/
theorem keeps_atMarker {γ : Type} {π : State → γ} {code : Byte} {header frame : Seq Unit}
    (hlatch : ∀ s : State, π (s.setBits (s.bits.latch code)) = π s) (hh : Keeps π header) (hf : Keeps π frame) :
    Keeps π (atMarker code header frame) := by
  intro p s hs
  rw [atMarker_apply]
  cases hp : s.phase with
  | header => exact hh p s hs
  | frame => exact hf p s hs
  | scan => exact (hlatch s).trans hs
  | soi | idle | finish | output | done | error => exact hs

theorem keeps_inHeader {γ : Type} {π : State → γ} {m : Seq Unit} (hctl : ∀ (s : State) c, π (s.setCtl c) = π s)
    (hm : Keeps π m) : Keeps π (inHeader m) :=
  keeps_bind hm fun _ => keeps_upd fun s => hctl s _

/-! ### The phase graph (R211) -/

/-- A piece that begins in phase `p` and runs to its end is in `p` still, or has followed the phase graph. -/
def Turns {α : Type} (p : Phase) (m : Seq α) : Prop :=
  Triple (fun s => s.phase = p) m (fun _ t => t.phase = p ∨ phaseEdge p t.phase = true) (fun _ _ => True)

section
variable {α β : Type} {p : Phase}

theorem triple_trivial (P : State → Prop) (m : Seq α) : Triple P m (fun _ _ => True) (fun _ _ => True) := by
  intro s _
  cases m s <;> trivial

theorem turns_of_keeps {m : Seq α} (h : Keeps State.phase m) : Turns p m :=
  triple_conseq (h p) (fun _ _ ht => .inl ht) (fun _ _ _ => trivial)

theorem turns_bind {m : Seq α} {f : α → Seq β} (hm : Keeps State.phase m) (hf : ∀ a, Turns p (f a)) : Turns p (m >>= f) :=
  triple_bind (triple_conseq (hm p) (fun _ _ ht => ht) (fun _ _ _ => trivial)) hf

theorem turns_ite {c : Prop} [Decidable c] {m n : Seq α} (hm : Turns p m) (hn : Turns p n) : Turns p (if c then m else n) :=
  triple_ite (fun _ => hm) (fun _ => hn)

theorem ignoresInput_phase : IgnoresInput State.phase := fun _ _ _ => rfl

theorem ignoresBlocks_phase : IgnoresBlocks State.phase :=
  ⟨ignoresInput_phase, fun _ _ => rfl, fun _ _ _ => rfl, fun _ _ => rfl, fun _ _ => rfl⟩

/-- The frame header ends in FRAME (R238). -/
theorem turns_frameHeader (progressive : Bool) : Turns .header (frameHeader progressive) :=
  triple_bind (triple_trivial _ _) fun _ => triple_bind (triple_trivial _ _) fun _ => triple_bind (triple_trivial _ _) fun _ =>
    triple_bind (triple_trivial _ _) fun _ => triple_bind (triple_trivial _ _) fun _ => triple_bind (triple_trivial _ _) fun _ =>
    triple_bind (triple_trivial _ _) fun _ => triple_upd fun _ _ => .inr rfl

/-- The scan header ends in SCAN (R246). -/
theorem turns_startOfScan : Turns .frame startOfScan :=
  triple_bind (triple_trivial _ _) fun _ => triple_bind (triple_trivial _ _) fun _ => triple_bind (triple_trivial _ _) fun _ =>
    triple_bind (triple_trivial _ _) fun _ => triple_upd fun _ _ => .inr rfl

theorem turns_endOfImage : Turns .frame (upd State.endOfImage) := by
  refine triple_upd fun s _ => .inr ?_
  rw [State.endOfImage, State.setPhase_phase]
  split <;> rfl

theorem turns_endOfScan : Turns .scan endOfScan :=
  triple_bind (triple_trivial _ _) fun _ => triple_bind (triple_trivial _ _) fun _ => triple_upd fun _ _ => .inr rfl

theorem turns_mcuStep : Turns .scan mcuStep := by
  have hmcu : Keeps State.phase runMcu :=
    keeps_bind keeps_get fun _ => keeps_ite (keeps_runBlock ignoresBlocks_phase) <|
      keeps_forEach _ fun _ => keeps_bind (keeps_upd fun _ => rfl) fun _ => keeps_runBlock ignoresBlocks_phase
  have hrestart (last : Bool) : Keeps State.phase (restartCheck last) :=
    keeps_bind (keeps_upd fun _ => rfl) fun _ => keeps_bind (keeps_look _) fun _ => keeps_ite
      (keeps_bind (keeps_fillBelow ignoresBlocks_phase _) fun _ => keeps_bind (keeps_look _) fun _ =>
        keeps_bind (keeps_check _ _) fun _ => keeps_upd fun _ => rfl)
      (keeps_pure _)
  have hnext (s : State) : s.nextMcu.phase = s.phase := by
    unfold State.nextMcu
    split <;> rfl
  exact turns_of_keeps <| keeps_bind hmcu fun _ => keeps_bind (keeps_look _) fun _ => keeps_bind (hrestart _) fun _ => keeps_upd hnext

theorem turns_dequantIdct : Turns .finish dequantIdct := by
  refine turns_bind keeps_get fun _ => turns_bind (keeps_check _ _) fun _ => turns_bind (keeps_loadedQt _) fun _ =>
    turns_bind (keeps_dequantBlock ignoresBlocks_phase _ _ _) fun _ => turns_bind (keeps_idct ignoresBlocks_phase) fun _ =>
    turns_bind (keeps_placeBlock ignoresBlocks_phase _ _ _) fun _ => triple_upd fun s hs => ?_
  have hphase : s.nextFinish.phase = .output ∨ s.nextFinish.phase = s.phase := ite_eq_or_eq _ _ _
  rcases hphase with h | h
  · exact .inr (by rw [h]; rfl)
  · exact .inl (h.trans hs)

theorem keeps_makeRow : Keeps State.phase makeRow := by
  have hread (c : Fin 4) (y n : Nat) : ∀ x, Keeps State.phase (readRow c y x n) := by
    induction n with
    | zero => exact fun _ => keeps_pure _
    | succ n ih => exact fun x => keeps_bind (keeps_planeRead _ _ _) fun _ => keeps_bind (ih _) fun _ => keeps_pure _
  have hrow (k : Fin 4) : Keeps State.phase (rowStep k) :=
    keeps_bind (keeps_look _) fun _ => keeps_bind (hread _ _ _ _) fun _ =>
      keeps_bind (keeps_ite (hread _ _ _ _) (keeps_pure _)) fun _ => keeps_upd fun _ => rfl
  have hsetup : Keeps State.phase setupOutput :=
    keeps_bind (keeps_look _) fun _ => keeps_bind (keeps_forEach _ fun _ => keeps_upd fun _ => rfl) fun _ => keeps_upd fun _ => rfl
  exact keeps_bind (keeps_look _) fun _ => keeps_bind (keeps_onlyIf _ hsetup) fun _ => keeps_bind (keeps_look _) fun _ =>
    keeps_bind (keeps_forEach _ hrow) fun _ => keeps_upd fun _ => rfl

theorem keeps_fetchMarker : Keeps State.phase fetchMarker := by
  have hget : Keeps State.phase getMarker := keeps_getMarker ignoresInput_phase (fun _ _ => rfl) (fun _ _ => rfl)
  have hskip (n : Nat) : ∀ m, Keeps State.phase (skipPadding n m) := by
    induction n with
    | zero => exact fun _ => keeps_pure _
    | succ n ih => exact fun _ => keeps_ite (keeps_bind hget fun _ => ih _) (keeps_pure _)
  exact keeps_bind hget fun _ => keeps_bind (keeps_look _) fun _ =>
    keeps_ite (keeps_bind (keeps_look _) fun _ => hskip _ _) (keeps_pure _)

end

/-- A marker instruction in SOI, HEADER or FRAME is SOI ending phase SOI, or does what its rule for the phase says, and that rule
follows the phase graph (R213, R214, R240). -/
theorem exec_of_decodeCode {c : Byte} {i : Instr} {s : State} (hi : decodeCode c = .ok i)
    (hp : s.phase = .soi ∨ s.phase = .header ∨ s.phase = .frame) :
    (i = .soi ∧ s.phase = .soi) ∨ ∃ code header frame, exec i s = runOp (atMarker code header frame) s ∧
      Turns .header header ∧ Turns .frame frame := by
  have hsegment {m : Seq Unit} (hm : Keeps State.phase m) : Turns .header (inHeader m) ∧ Turns .frame m :=
    ⟨turns_of_keeps (keeps_inHeader (fun _ _ => rfl) hm), turns_of_keeps hm⟩
  have hraise (e : ErrCode) : Turns .header (inHeader (raise e)) ∧ Turns .frame (raise e : Seq Unit) := hsegment (keeps_raise e)
  have hframe {m : Seq Unit} (hm : Turns .frame m) : Turns .header (raise .unexpectedMarker : Seq Unit) ∧ Turns .frame m :=
    ⟨turns_of_keeps (keeps_raise _), hm⟩
  have hsof (b : Bool) : Turns .header (frameHeader b) ∧ Turns .frame (raise .unexpectedMarker : Seq Unit) :=
    ⟨turns_frameHeader b, turns_of_keeps (keeps_raise _)⟩
  have hin := ignoresInput_phase
  have hscan : s.phase ≠ .scan := by rcases hp with hp | hp | hp <;> rw [hp] <;> decide
  have hlevel : Laws.F.levelOf i = .marker := by rw [← levelOf_encode i, (encode_of_decodeCode hi).2]; rfl
  cases i with
  | soi =>
    by_cases hsoi : s.phase = .soi
    · exact .inl ⟨rfl, hsoi⟩
    · exact .inr ⟨_, _, _, exec_soi hsoi, hraise .unexpectedMarker⟩
  | rst m => exact .inr ⟨_, _, _, exec_rst hscan m, hraise .unexpectedMarker⟩
  | stuff => exact .inr ⟨_, _, _, exec_stuff hscan, hraise .unknownMarker⟩
  | eoi => exact .inr ⟨_, _, _, rfl, hframe turns_endOfImage⟩
  | sos => exact .inr ⟨_, _, _, rfl, hframe turns_startOfScan⟩
  | dnl => exact .inr ⟨_, _, _, rfl, hframe (turns_of_keeps (keeps_segDnl hin))⟩
  | sof0 | sof1 | sof2 => exact .inr ⟨_, _, _, rfl, hsof _⟩
  | dht => exact .inr ⟨_, _, _, rfl, hsegment (keeps_segDht hin (fun _ _ _ _ => rfl) fun _ _ _ => rfl)⟩
  | dqt => exact .inr ⟨_, _, _, rfl, hsegment (keeps_segDqt hin (fun _ _ _ _ => rfl) fun _ _ => rfl)⟩
  | dri => exact .inr ⟨_, _, _, rfl, hsegment (keeps_segDri hin fun _ _ => rfl)⟩
  | app0 => exact .inr ⟨_, _, _, rfl, hsegment (keeps_segApp hin (keeps_recogniseJfif hin fun _ _ => rfl))⟩
  | app14 => exact .inr ⟨_, _, _, rfl, hsegment (keeps_segApp hin (keeps_recogniseAdobe hin fun _ _ => rfl))⟩
  | appn n => exact .inr ⟨_, _, _, rfl, hsegment (keeps_segApp hin fun _ => keeps_pure _)⟩
  | com => exact .inr ⟨_, _, _, rfl, hsegment (keeps_segApp hin fun _ => keeps_pure _)⟩
  | sof3 | sof5 | sof6 | sof7 | sof9 | sof10 | sof11 | dac | sof13 | sof14 | sof15 | dhp | exp =>
    exact .inr ⟨_, _, _, rfl, hraise .unsupportedProcess⟩
  | res code => exact .inr ⟨_, _, _, rfl, hraise .unknownMarker⟩
  | _ => cases hlevel

/-- Every next state of an outcome is in the phase of `s`, or has followed the phase graph from it. -/
def State.Follows (s : State) (o : Host.Outcome State Fault Refusal) : Prop :=
  ∀ t, o = .next t → t.phase = s.phase ∨ phaseEdge s.phase t.phase = true

section
variable {s : State}

theorem State.follows_error (hb : s.phase.busy = true) (e : ErrCode) (t : State) : s.Follows (.next (t.takeError e)) := by
  rintro _ ⟨⟩
  have hedge : ∀ p : Phase, phaseEdge p .error = p.busy := by intro p; cases p <;> rfl
  exact .inr ((hedge s.phase).trans hb)

theorem State.follows_same {t : State} (h : t.phase = s.phase) : s.Follows (.next t) := by
  rintro _ ⟨⟩
  exact .inl h

theorem State.follows_settle {α : Type} {r : EStateM.Result Stop State α} {k : α → State → Host.Outcome State Fault Refusal}
    (hb : s.phase.busy = true) (hk : ∀ a t, r = .ok a t → s.Follows (k a t)) : s.Follows (settle s r k) := by
  match r with
  | .ok a t => exact hk a t rfl
  | .error (.raise e) t => exact s.follows_error hb e t
  | .error .stall t => exact s.follows_same rfl
  | .error (.fault f) t => exact fun _ h => nomatch h

theorem State.follows_runOp {m : Seq Unit} (hb : s.phase.busy = true) (hm : Turns s.phase m) : s.Follows (runOp m s) := by
  refine s.follows_settle hb fun a t h => ?_
  have ht := hm s.unheld rfl
  rw [h] at ht
  rintro _ ⟨⟩
  exact ht

theorem State.follows_holdFrom {o : Host.Outcome State Fault Refusal} (h : s.Follows o) : s.Follows (holdFrom s o) := by
  cases o with
  | next t =>
    show s.Follows (if t.ctl.stallIn then _ else _)
    split
    · exact s.follows_same rfl
    · exact h
  | fault f => exact h
  | refused r => exact h

theorem State.follows_dispatchMarker (hp : s.phase = .soi ∨ s.phase = .header ∨ s.phase = .frame) (m : Byte) :
    s.Follows (dispatchMarker m s) := by
  have hb : s.phase.busy = true := by rcases hp with hp | hp | hp <;> rw [hp] <;> rfl
  unfold dispatchMarker
  split
  · rename_i i hi
    rcases exec_of_decodeCode hi hp with ⟨rfl, hsoi⟩ | ⟨code, header, frame, he, hheader, hframe⟩
    · refine s.follows_runOp hb ?_
      rw [hsoi]
      exact triple_bind (Q := fun a u => a = .soi) (triple_look fun _ h => h) fun a => triple_ite
        (fun _ => triple_upd fun _ _ => .inr rfl) (fun hne u hu => absurd hu hne)
    · rw [he]
      refine s.follows_runOp hb fun u hu => ?_
      rw [atMarker_apply]
      rcases hp with hp | hp | hp <;> rw [hp] at hu ⊢ <;> rw [hu]
      · trivial
      · exact hheader u hu
      · exact hframe u hu
  · exact s.follows_error hb _ s

theorem State.follows_markerStep (hp : s.phase = .soi ∨ s.phase = .header ∨ s.phase = .frame) : s.Follows (markerStep s) := by
  have hb : s.phase.busy = true := by rcases hp with hp | hp | hp <;> rw [hp] <;> rfl
  refine s.follows_settle hb fun m t h => s.follows_holdFrom ?_
  have ht := keeps_fetchMarker s.phase s.unheld rfl
  rw [h] at ht
  have hfollows := t.follows_dispatchMarker (by rwa [ht]) m
  unfold State.Follows at hfollows ⊢
  rwa [ht] at hfollows

theorem State.follows_offerRow (hp : s.phase = .output) {t : State} (ht : t.phase = s.phase) : s.Follows (.next t.offerRow) := by
  rintro _ ⟨⟩
  unfold State.offerRow
  split
  · exact .inl ht
  · split
    · have hphase (j data) : (t.finishRow j data).phase = .done ∨ (t.finishRow j data).phase = t.phase := ite_eq_or_eq _ _ _
      rcases hphase _ _ with h | h
      · exact .inr (by rw [h, hp]; rfl)
      · exact .inl (h.trans ht)
    · exact .inl ht

theorem State.follows_phaseStep (hb : s.phase.busy = true) : s.Follows (phaseStep s) := by
  unfold phaseStep
  cases hp : s.phase with
  | soi => exact s.follows_markerStep (.inl hp)
  | header => exact s.follows_markerStep (.inr (.inl hp))
  | frame => exact s.follows_markerStep (.inr (.inr hp))
  | scan =>
    refine s.follows_runOp hb ?_
    rw [hp]
    exact turns_bind (keeps_look _) fun _ => turns_ite turns_endOfScan turns_mcuStep
  | finish => exact s.follows_runOp hb (hp ▸ turns_dequantIdct)
  | output =>
    show s.Follows (outputStep s)
    unfold outputStep
    split
    · exact s.follows_offerRow hp rfl
    · refine s.follows_settle hb fun _ t h => s.follows_offerRow hp ?_
      have ht := keeps_makeRow s.phase s.unheld rfl
      rwa [h] at ht
  | idle | done | error => exact s.follows_same rfl

end

/-- Settles O7: every piece of a step's rule follows the phase graph where it runs to its end, an error enters ERROR from a busy
phase, and a held step keeps its phase. -/
theorem phaseGraph : Obligations.PhaseGraph := by
  intro s t hturn h
  rw [step_ownTurn hturn, sequencerStep] at h
  cases hw : s.phase.waiting with
  | true =>
    rw [hw, if_pos rfl] at h
    cases h
    exact .inl rfl
  | false =>
    have hb : s.phase.busy = true := by rw [Phase.busy, hw]; rfl
    rw [hw, if_neg Bool.false_ne_true] at h
    split at h
    · exact s.follows_error hb _ s t h
    · exact s.follows_phaseStep hb t h

/-! ### Which instruction a step runs (R210, R212 to R216) -/

theorem fetchMarker_of_getMarker {s t : State} {m : Byte} (h : getMarker s = .ok m t) (hm : m ≠ 0xFF) :
    fetchMarker s = .ok m t := by
  rw [fetchMarker, seq_bind_ok h, look_bind]
  split
  · rw [supplied, look_bind, skipPadding, if_neg hm]
    rfl
  · rfl

theorem fetchMarker_error {s t : State} {e : Stop} (h : getMarker s = .error e t) : fetchMarker s = .error e t :=
  seq_bind_error h _

/-- Where no padding is skipped a byte that is no marker is the answer (R213, R216). -/
theorem fetchMarker_none {s t : State} (h : getMarker s = .ok 0xFF t) (hpad : ¬(t.phase = .header ∧ t.ctl.hdrPad = true)) :
    fetchMarker s = .ok 0xFF t := by
  have hno : (t.phase == .header && t.ctl.hdrPad) = false := by simpa using hpad
  rw [fetchMarker, seq_bind_ok h, look_bind, hno]
  rfl

/-- Bytes before the marker are skipped one after the other (R214). -/
theorem skipPadding_pad {pad : List Byte} {s : State} {k n : Nat} {c : Byte} {rest : List Byte} (hpad : ∀ b ∈ pad, b ≠ 0xFF)
    (hn : pad.length < n) (hm : s.bits.marker = 0xFF) (hc : c ≠ 0xFF) (h : s.port.input = pad ++ (markerBytes k c ++ rest)) :
    skipPadding n 0xFF s =
      .ok c { s.consumed (pad.length + (k + 2)) with lastMarker := c, lastMarkerValid := true } := by
  induction pad generalizing s n with
  | nil =>
    obtain ⟨n, rfl⟩ := Nat.exists_eq_add_of_le' hn
    rw [List.length_nil, Nat.zero_add, skipPadding, if_pos rfl, seq_bind_ok (getMarker_next hm hc h)]
    cases n with
    | zero => rfl
    | succ n => rw [skipPadding, if_neg hc]; rfl
  | cons b pad ih =>
    obtain ⟨n, rfl⟩ := Nat.exists_eq_add_of_le' (Nat.one_le_of_lt hn)
    have hb : s.port.input = b :: (pad ++ (markerBytes k c ++ rest)) := h
    have hrest : (s.consumed 1).port.input = pad ++ (markerBytes k c ++ rest) := State.consumed_input (l := [b]) hb
    rw [skipPadding, if_pos rfl, seq_bind_ok (getMarker_none hm (hpad b (List.mem_cons_self ..)) hb),
      ih (s := s.consumed 1) (fun x hx => hpad x (List.mem_cons_of_mem _ hx)) (Nat.lt_of_succ_lt_succ hn) hm hrest,
      State.consumed_consumed, List.length_cons, Nat.add_comm 1, Nat.add_right_comm]

theorem decodeCode_ne_fill {c : Byte} {i : Instr} (h : decodeCode c = .ok i) : c ≠ 0xFF := by
  rintro rfl
  cases h

section
variable {s t : State}

/-- The sequencer reads a marker in SOI, HEADER and FRAME (R210). -/
theorem step_markerStep (hturn : s.OwnTurn) (hp : s.phase = .soi ∨ s.phase = .header ∨ s.phase = .frame) (hc : s.cancels = false) :
    step s = markerStep s := by
  rw [step_ownTurn hturn, sequencerStep, hc]
  rcases hp with hp | hp | hp <;> simp only [phaseStep, hp] <;> rfl

variable (hturn : s.OwnTurn) (hp : s.phase = .soi ∨ s.phase = .header ∨ s.phase = .frame) (hc : s.cancels = false)
include hturn hp hc

theorem step_fetched {m : Byte} {i : Instr} (h : fetchMarker s.unheld = .ok m t) (hi : decodeCode m = .ok i) :
    step s = holdFrom s (exec i t) := by
  rw [step_markerStep hturn hp hc, markerStep, h]
  simp only [settle, dispatchMarker, hi]

theorem step_no_marker (h : fetchMarker s.unheld = .ok 0xFF t) (ht : t.ctl.stallIn = false) :
    step s = .next (t.takeError (if t.phase = .soi then .noSoi else .expectedMarker)) := by
  rw [step_markerStep hturn hp hc, markerStep, h]
  exact holdFrom_next ht

/-- A read that finds no byte: the end of the stream, or the step is held (R71). -/
theorem step_no_byte (h : getMarker s.unheld = .error (if s.port.eos then .raise .endOfStream else .stall) t) :
    step s = if s.port.eos then .next (t.takeError .endOfStream) else .next (s.hold (t.bytePos - s.bytePos)) := by
  rw [step_markerStep hturn hp hc, markerStep, fetchMarker_error h]
  cases s.port.eos <;> rfl

end

/-- An issued word that is no command and decodes (log 7). -/
theorem issueStep_ok {e : Enc} {i : Instr} {s : State} (he : ∀ w, e ≠ .ctrl w) (hi : decode e = .ok i) :
    issueStep e s = holdFrom s (exec i { s with issue := none }) := by
  unfold issueStep
  split
  · exact absurd rfl (he _)
  · rename_i hj
    cases hi.symm.trans hj
    rfl
  · rename_i hj
    cases hi.symm.trans hj
  · rename_i hj
    cases hi.symm.trans hj

/-- Settles O5: a host write and an issued word come first; then the latched marker, or the next one of the stream. -/
theorem stepRunsDecoded : Obligations.StepRunsDecoded := by
  refine ⟨fun s w rest hw h0 => ?_, fun s e i hw he hctrl hi => ?_, fun s i hturn hp hc hm hi => ?_,
    fun s k code rest i hturn hp hc hm h hi => ?_⟩
  · rw [step_write hw, hostWrite, if_neg (by rw [h0]; decide), if_pos h0]
  · exact (step_issue hw he).trans (issueStep_ok hctrl hi)
  · exact step_fetched hturn hp hc (fetchMarker_of_getMarker (getMarker_latched (s := s.unheld) hm) hm) hi
  · have hff := decodeCode_ne_fill hi
    exact step_fetched hturn hp hc (fetchMarker_of_getMarker (getMarker_next (s := s.unheld) hm hff h) hff) hi

theorem exists_decodeCode {c : Byte} (h : c ≠ 0xFF) : ∃ i, decodeCode c = .ok i := by
  unfold decodeCode
  rw [if_neg h]
  split
  · exact ⟨_, rfl⟩
  · split_ifs <;> exact ⟨_, rfl⟩

/-- In SOI every marker but SOI itself is NoSoi (R213). -/
theorem exec_noSoi {c : Byte} {i : Instr} {s : State} (hi : decodeCode c = .ok i) (hc : c ≠ 0xD8) (hp : s.phase = .soi) :
    exec i s = .next (s.unheld.takeError .noSoi) := by
  rcases exec_of_decodeCode hi (.inl hp) with ⟨rfl, -⟩ | ⟨code, header, frame, he, -, -⟩
  · have hword : Enc.marker (markerWord 0xD8) = .marker (markerWord c) := (encode_of_decodeCode hi).2
    injection hword with hword
    exact absurd (by rw [← markerWord_code c, ← hword, markerWord_code]) hc
  · rw [he]
    refine runOp_raise ?_
    rw [atMarker_apply, State.unheld_phase, hp]

/-- Settles O21: what GetMarker answers where no marker stands, and what each phase makes of it. -/
theorem missingMarkers : Obligations.MissingMarkers := by
  refine ⟨fun s b rest hturn hc hm hp h hb => ?_, fun s b rest hturn hc hm hp h hb => ?_,
    fun s k c rest hturn hc hm hp h hff hD8 => ?_, fun s pad k c rest i hturn hc hm hp hpad hbytes h hi => ?_,
    fun s hturn hc hm hp => ⟨fun h => ?_, fun h => ?_⟩⟩
  · have hget := getMarker_none (s := s.unheld) hm hb h
    rw [step_no_marker hturn (.inl hp) hc (fetchMarker_none hget fun hpad => ?_) rfl]
    · exact congrArg (fun e => Host.Outcome.next (State.takeError e _)) (if_pos hp)
    · cases hp.symm.trans hpad.1
  · have hget := getMarker_none (s := s.unheld) hm hb h
    have hmarker : s.phase = .soi ∨ s.phase = .header ∨ s.phase = .frame := .inr (hp.symm.imp And.left id)
    have hsoi : s.phase ≠ .soi := by rcases hp with hp | ⟨hp, -⟩ <;> rw [hp] <;> decide
    rw [step_no_marker hturn hmarker hc (fetchMarker_none hget fun hpad => ?_) rfl]
    · exact congrArg (fun e => Host.Outcome.next (State.takeError e _)) (if_neg hsoi)
    · rcases hp with hp | ⟨-, hp⟩
      · cases hp.symm.trans hpad.1
      · cases hp.symm.trans hpad.2
  · obtain ⟨i, hi⟩ := exists_decodeCode hff
    have hfetch := fetchMarker_of_getMarker (getMarker_next (s := s.unheld) hm hff h) hff
    have hno := exec_noSoi (s := { s.unheld.consumed (k + 2) with lastMarker := c, lastMarkerValid := true }) hi hD8 hp
    exact (step_fetched hturn (.inl hp) hc hfetch hi).trans (congrArg (holdFrom s) hno)
  · have hff := decodeCode_ne_fill hi
    refine step_fetched hturn (.inr (.inl hp)) hc ?_ hi
    cases pad with
    | nil =>
      rw [List.length_nil, Nat.zero_add]
      exact fetchMarker_of_getMarker (getMarker_next (s := s.unheld) hm hff h) hff
    | cons b pad =>
      have hb : s.unheld.port.input = b :: (pad ++ (markerBytes k c ++ rest)) := h
      have hrest : (s.unheld.consumed 1).port.input = pad ++ (markerBytes k c ++ rest) := State.consumed_input (l := [b]) hb
      have hskips : ((s.unheld.consumed 1).phase == .header && (s.unheld.consumed 1).ctl.hdrPad) = true :=
        Bool.and_eq_true_iff.2 ⟨beq_iff_eq.2 hp, hpad⟩
      have hlen : pad.length < (s.unheld.consumed 1).port.input.length + 1 := by
        rw [hrest, List.length_append]
        omega
      rw [fetchMarker, seq_bind_ok (getMarker_none (s := s.unheld) hm (hbytes b (List.mem_cons_self ..)) hb), look_bind, hskips,
        if_pos rfl, supplied, look_bind, skipPadding_pad (s := s.unheld.consumed 1)
          (fun x hx => hbytes x (List.mem_cons_of_mem _ hx)) hlen hm hff hrest,
        State.consumed_consumed, List.length_cons, Nat.add_comm 1, Nat.add_right_comm]
  · rw [step_no_byte hturn hp hc (getMarker_no_byte (s := s.unheld) hm h), State.unheld_bytePos, BitVec.sub_self]
    rfl
  · have hone : (s.unheld.consumed 1).bytePos - s.bytePos = 1 := by
      show s.bytePos + 1 - s.bytePos = 1
      rw [BitVec.add_comm, BitVec.add_sub_cancel]
    rw [step_no_byte hturn hp hc (getMarker_lone_ff (s := s.unheld) hm h), hone]
    rfl

/-! ### APPn and COM (R220 to R222) -/

/-- On a segment with this payload the marker's rule reads some of its bytes, changes the colour flags by `F`, and gives how many bytes are
left to skip. -/
def Recognises (recognise : Nat → Seq Nat) (payload : List Byte) (F : Flags → Flags) : Prop :=
  ∀ (s : State) (rest : List Byte), s.port.input = payload ++ rest → ∃ pre post, payload = pre ++ post ∧
    recognise payload.length s = .ok post.length ((s.consumed pre.length).setFlags (F s.flags))

theorem recognises_none (payload : List Byte) : Recognises recogniseNone payload id :=
  fun s _ _ => ⟨[], payload, rfl, by rw [List.length_nil, State.consumed_zero]; rfl⟩

/-- The colour flags after an APP0 segment (R221). -/
def jfifFlags (payload : List Byte) (f : Flags) : Flags := if payload.take 5 = jfifTag then { f with jfif := true } else f

/-- The colour flags after an APP14 segment (R222). -/
def adobeFlags (payload : List Byte) (f : Flags) : Flags :=
  if 12 ≤ payload.length ∧ payload.take 6 = adobeTag then { f with app14Valid := true, app14 := payload.getD 11 0 } else f

/-- All five bytes are read even after a mismatch (R221). -/
theorem recognises_jfif (payload : List Byte) : Recognises recogniseJfif payload (jfifFlags payload) := by
  intro s rest h
  unfold jfifFlags
  by_cases hlen : 5 ≤ payload.length
  · have htake : (payload.take 5).length = 5 := List.length_take_of_le hlen
    have hread := readBytes_consumed (s := s) (l := payload.take 5) (rest := payload.drop 5 ++ rest)
      (by rw [← List.append_assoc, List.take_append_drop, h])
    rw [htake] at hread
    refine ⟨payload.take 5, payload.drop 5, (List.take_append_drop 5 payload).symm, ?_⟩
    rw [recogniseJfif, if_pos hlen, jfifCheck, seq_bind_ok hread, htake, List.length_drop]
    by_cases htag : payload.take 5 = jfifTag
    · rw [if_pos htag, htag, beq_self_eq_true]
      rfl
    · rw [if_neg htag, beq_false_of_ne htag]
      rfl
  · have htag : payload.take 5 ≠ jfifTag := by
      intro he
      have hlength : min 5 payload.length = 5 := by rw [← List.length_take, he]; rfl
      omega
    refine ⟨[], payload, rfl, ?_⟩
    rw [recogniseJfif, if_neg hlen, if_neg htag, List.length_nil, State.consumed_zero]
    rfl

/-- The transform is the last of the six bytes after the tag (R222). -/
theorem adobeFields_ok {s : State} {v a b c d t : Byte} {rest : List Byte}
    (h : s.port.input = v :: a :: b :: c :: d :: t :: rest) :
    adobeFields s = .ok () ((s.consumed 6).setFlags { s.flags with app14 := t, app14Valid := true }) := by
  have h1 : (s.consumed 1).port.input = a :: b :: c :: d :: t :: rest := State.consumed_input (l := [v]) h
  have h3 : (s.consumed 3).port.input = c :: d :: t :: rest := State.consumed_input (l := [v, a, b]) h
  have h5 : (s.consumed 5).port.input = t :: rest := State.consumed_input (l := [v, a, b, c, d]) h
  rw [adobeFields, seq_bind_ok (readU8_consumed h), seq_bind_ok (readU16_consumed h1), State.consumed_consumed,
    seq_bind_ok (readU16_consumed h3), State.consumed_consumed, seq_bind_ok (readU8_consumed h5), State.consumed_consumed]
  rfl

/-- All six bytes are read even after a mismatch, and six more after the tag (R222). -/
theorem recognises_adobe (payload : List Byte) : Recognises recogniseAdobe payload (adobeFlags payload) := by
  intro s rest h
  unfold adobeFlags
  by_cases hlen : 12 ≤ payload.length
  · have htake : (payload.take 6).length = 6 := List.length_take_of_le (by omega)
    have hsplit : s.port.input = payload.take 6 ++ (payload.drop 6 ++ rest) := by
      rw [← List.append_assoc, List.take_append_drop, h]
    have hread := readBytes_consumed hsplit
    have hnext := State.consumed_input hsplit
    rw [htake] at hread hnext
    rw [recogniseAdobe, if_pos hlen, adobeCheck, seq_bind_ok hread]
    by_cases htag : payload.take 6 = adobeTag
    · have hfields : payload.drop 6 = payload[6] :: payload[7] :: payload[8] :: payload[9] :: payload[10] :: payload[11] ::
          payload.drop 12 := by
        iterate 6 rw [List.drop_eq_getElem_cons (by omega)]
      have hlast : payload.getD 11 0 = payload[11] := List.getD_eq_getElem _ _ _
      rw [hfields] at hnext
      refine ⟨payload.take 12, payload.drop 12, (List.take_append_drop 12 payload).symm, ?_⟩
      rw [if_pos htag, seq_bind_ok (adobeFields_ok hnext), if_pos ⟨hlen, htag⟩, hlast, State.consumed_consumed,
        List.length_take_of_le hlen, List.length_drop, Nat.sub_sub]
      rfl
    · refine ⟨payload.take 6, payload.drop 6, (List.take_append_drop 6 payload).symm, ?_⟩
      rw [if_neg htag, if_neg fun hc => htag hc.2, htake, List.length_drop]
      rfl
  · refine ⟨[], payload, rfl, ?_⟩
    rw [recogniseAdobe, if_neg hlen, if_neg fun hc => hlen hc.1, List.length_nil, State.consumed_zero]
    rfl

section
variable {s : State} {recognise : Nat → Seq Nat} {code a b : Byte} {rest : List Byte}

/-- What the marker's rule has read and what is skipped are the payload. -/
theorem runOp_segApp {payload : List Byte} {F : Flags → Flags} (hrec : Recognises recognise payload F)
    (hp : s.phase = .header ∨ s.phase = .frame) (hL : (a ++ b : BitVec 16).toNat = 2 + payload.length)
    (h : s.port.input = a :: b :: (payload ++ rest)) :
    runOp (segmentMarker code (segApp recognise)) s =
      .next { s.afterSegment (2 + payload.length) with flags := F s.flags } := by
  have hpayload : (s.unheld.consumed 2).port.input = payload ++ rest := State.consumed_input (l := [a, b]) h
  obtain ⟨pre, post, rfl, hread⟩ := hrec _ rest hpayload
  have hpost : (((s.unheld.consumed 2).consumed pre.length).setFlags (F s.flags)).port.input = post ++ rest :=
    State.consumed_input (by rw [hpayload, List.append_assoc])
  refine (runOp_segmentMarker_ok (t := (s.unheld.consumed (2 + (pre ++ post).length)).setFlags (F s.flags)) hp ?_).trans rfl
  rw [segApp, seq_bind_ok (readU16_consumed (s := s.unheld) h), check_bind,
    if_neg fun hs => absurd (of_decide_eq_true hs) (by omega), hL, Nat.add_sub_cancel_left, seq_bind_ok hread]
  refine (skip_consumed hpost).trans ?_
  rw [List.length_append, ← Nat.add_assoc, ← State.consumed_consumed, ← State.consumed_consumed]
  rfl

theorem runOp_segApp_short (hp : s.phase = .header ∨ s.phase = .frame) (hL : (a ++ b : BitVec 16).toNat < 2)
    (h : s.port.input = a :: b :: rest) :
    runOp (segmentMarker code (segApp recognise)) s = .next ((s.consumed 2).errored .badSegmentLength) := by
  refine runOp_segmentMarker_raise hp ?_
  rw [segApp, seq_bind_ok (readU16_consumed (s := s.unheld) h), check_bind, if_pos (decide_eq_true hL)]
  rfl

end

/-- Settles O28: what each marker recognises in a payload; the rest is skipped. -/
theorem appSegments : Obligations.AppSegments := by
  refine ⟨fun s a b payload rest hp hL h => ⟨runOp_segApp (recognises_none payload) hp hL h,
    fun n => runOp_segApp (recognises_none payload) hp hL h, (runOp_segApp (recognises_jfif payload) hp hL h :),
    (runOp_segApp (recognises_adobe payload) hp hL h :)⟩, fun s i a b rest hp hi h hL => ?_⟩
  rcases hi with rfl | ⟨n, rfl⟩ | rfl | rfl <;> exact runOp_segApp_short hp hL h

/-! ### What the segment markers leave unchanged -/

/-- The part does not show what the rule of a segment marker may write, whatever it answers: the input, the control flags, the latched
marker, the error record, and what the marker's own segment is for (R217 to R222, R249, R410). -/
structure IgnoresSegment {γ : Type} (i : Instr) (π : State → γ) : Prop where
  input : IgnoresInput π
  ctl : ∀ (s : State) c, π (s.setCtl c) = π s
  error : ∀ e (s : State), π (s.takeError e) = π s
  latch : ∀ (s : State) m, π (s.setBits (s.bits.latch m)) = π s
  quant : i = .dqt → (∀ (s : State) q z v, π (s.setQt q z v) = π s) ∧ ∀ (s : State) q, π (s.setQtLoaded q) = π s
  huff : i = .dht → (∀ (s : State) tc th T, π (s.setHuff tc th T) = π s) ∧ ∀ (s : State) th f, π (s.setFastAc th f) = π s
  restart : i = .dri → ∀ (s : State) v, π { s with restartInterval := v } = π s
  flags : i = .app0 ∨ i = .app14 → ∀ (s : State) f, π (s.setFlags f) = π s

theorem exec_segment_keeps {γ : Type} {π : State → γ} {i : Instr} {s t : State} (h : IgnoresSegment i π)
    (hi : i = .dqt ∨ i = .dht ∨ i = .dri ∨ i = .dnl ∨ i = .app0 ∨ i = .app14 ∨ i = .com ∨ ∃ n, i = .appn n)
    (hn : exec i s = .next t) : π t = π s := by
  have hrun {m : Seq Unit} (hm : Keeps π m) (hr : runOp m s = .next t) : π t = π s :=
    hm.runOp (fun s => h.ctl s _) h.error (fun _ s => h.ctl s _) hr
  have hsegment {code : Byte} {m : Seq Unit} (hm : Keeps π m) : Keeps π (segmentMarker code m) :=
    keeps_atMarker (fun s => h.latch s code) (keeps_inHeader h.ctl hm) hm
  rcases hi with rfl | rfl | rfl | rfl | rfl | rfl | rfl | ⟨n, rfl⟩
  · exact hrun (hsegment (keeps_segDqt h.input (h.quant rfl).1 (h.quant rfl).2)) hn
  · exact hrun (hsegment (keeps_segDht h.input (h.huff rfl).1 (h.huff rfl).2)) hn
  · exact hrun (hsegment (keeps_segDri h.input (h.restart rfl))) hn
  · exact hrun (keeps_atMarker (fun s => h.latch s _) (keeps_raise _) (keeps_segDnl h.input)) hn
  · exact hrun (hsegment (keeps_segApp h.input (keeps_recogniseJfif h.input (h.flags (.inl rfl))))) hn
  · exact hrun (hsegment (keeps_segApp h.input (keeps_recogniseAdobe h.input (h.flags (.inr rfl))))) hn
  · exact hrun (hsegment (keeps_segApp h.input fun _ => keeps_pure _)) hn
  · exact hrun (hsegment (keeps_segApp h.input fun _ => keeps_pure _)) hn

/-- A sample depends on its component's plane and size, and on whether the planes are allocated (R77). -/
theorem State.sample_congr {s t : State} {c : Fin 4} (halloc : t.planesAllocated = s.planesAllocated)
    (hw : (t.comp.get c).w2 = (s.comp.get c).w2) (hh : (t.comp.get c).h2 = (s.comp.get c).h2)
    (hplane : (t.comp.get c).plane = (s.comp.get c).plane) (y x : Nat) : t.sample c y x = s.sample c y x := by
  rw [State.sample, State.sample, State.inPlane, State.inPlane, State.planeIndex, State.planeIndex, halloc, hw, hh, hplane]

/-- So does a coefficient (R78). -/
theorem State.coefficient_congr {s t : State} {c : Fin 4} (halloc : t.planesAllocated = s.planesAllocated)
    (hw : (t.comp.get c).coeffW = (s.comp.get c).coeffW) (hh : (t.comp.get c).coeffH = (s.comp.get c).coeffH)
    (hcoef : (t.comp.get c).coef = (s.comp.get c).coef) (b z : Nat) : t.coefficient c b z = s.coefficient c b z := by
  rw [State.coefficient, State.coefficient, State.inCoef, State.inCoef, halloc, hw, hh, hcoef]

/-- `s` with everything that a table or parameter segment may write taken from `u`. -/
def State.segmentFrom (s u : State) : State :=
  { s with
    phase := u.phase, errCode := u.errCode, errClass := u.errClass, ctl := u.ctl, bytePos := u.bytePos
    bits := { s.bits with marker := u.bits.marker, noMoreBits := u.bits.noMoreBits }
    port := { s.port with input := u.port.input }, qt := u.qt, qtLoaded := u.qtLoaded, huff := u.huff
    fastAc := u.fastAc, restartInterval := u.restartInterval, flags := u.flags }

/-- `s` with everything that a frame header may write taken from `u`. -/
def State.frameHeaderFrom (s u : State) : State :=
  { s with
    phase := u.phase, errCode := u.errCode, errClass := u.errClass, ctl := u.ctl, bytePos := u.bytePos
    bits := { s.bits with marker := u.bits.marker, noMoreBits := u.bits.noMoreBits }
    port := { s.port with input := u.port.input, events := u.port.events }, frame := u.frame, comp := u.comp
    planesAllocated := u.planesAllocated, flags := { s.flags with rgbIds := u.flags.rgbIds } }

/-- `s` with everything that a scan header may write taken from `u`. -/
def State.scanHeaderFrom (s u : State) : State :=
  { s with
    phase := u.phase, errCode := u.errCode, errClass := u.errClass, ctl := u.ctl, bytePos := u.bytePos, bits := u.bits
    port := { s.port with input := u.port.input }, scan := u.scan, todo := u.todo, pos := u.pos, comp := u.comp }

/-- `c` with everything that a scan header may write of a component record taken from `d` (R242, R310). -/
def Comp.bindingFrom (c d : Comp) : Comp := { c with hd := d.hd, ha := d.ha, dcPred := d.dcPred }

/-- If the rest of two states is equal, the one is the other with that part replaced by its own. -/
theorem State.eq_segmentFrom {s t : State} (h : t.segmentFrom .reset = s.segmentFrom .reset) : t = s.segmentFrom t :=
  congrArg (fun u => u.segmentFrom t) h

theorem State.eq_frameHeaderFrom {s t : State} (h : t.frameHeaderFrom .reset = s.frameHeaderFrom .reset) :
    t = s.frameHeaderFrom t :=
  congrArg (fun u => u.frameHeaderFrom t) h

theorem State.eq_scanHeaderFrom {s t : State} (h : t.scanHeaderFrom .reset = s.scanHeaderFrom .reset) :
    t = s.scanHeaderFrom t :=
  congrArg (fun u => u.scanHeaderFrom t) h

theorem Comp.eq_bindingFrom {c d : Comp} (h : d.bindingFrom .empty = c.bindingFrom .empty) : d = c.bindingFrom d :=
  congrArg (fun e => e.bindingFrom d) h

/-- The component records without what a scan header writes. -/
def State.boundless (s : State) : Vector Comp 4 := s.comp.map fun c => c.bindingFrom .empty

theorem State.boundless_setComp {s : State} {c : Fin 4} {r : Comp} (h : r.bindingFrom .empty = (s.comp.get c).bindingFrom .empty) :
    (s.setComp c r).boundless = s.boundless := by
  refine Vector.ext fun i hi => ?_
  simp only [State.boundless, State.setComp_comp, Vector.getElem_map, Vector.getElem_set]
  split
  · subst i
    exact h
  · rfl

theorem State.boundless_resetEntropy (s : State) : s.resetEntropy.boundless = s.boundless := by
  simp only [State.boundless, State.resetEntropy, Vector.map_map]
  rfl

theorem State.boundless_get {s t : State} (h : t.boundless = s.boundless) (c : Fin 4) :
    t.comp.get c = (s.comp.get c).bindingFrom (t.comp.get c) := by
  have hc := congrArg (fun v : Vector Comp 4 => v.get c) h
  simp only [State.boundless, Vector.get_eq_getElem, Vector.getElem_map] at hc
  exact Comp.eq_bindingFrom hc

theorem ignoresBindings_scanHeaderFrom : IgnoresBindings fun s => s.scanHeaderFrom .reset :=
  ⟨fun _ _ _ => rfl, fun _ _ => rfl, fun _ _ _ => rfl, fun _ _ _ => rfl⟩

theorem ignoresBindings_boundless : IgnoresBindings State.boundless :=
  ⟨fun _ _ _ => rfl, fun _ _ => rfl, fun _ _ _ => State.boundless_setComp rfl, fun _ _ _ => State.boundless_setComp rfl⟩

theorem keeps_startOfScan {γ : Type} {π : State → γ} (h : IgnoresBindings π) (hstart : ∀ s : State, π s.startScan = π s) :
    Keeps π startOfScan :=
  fun _ => triple_startOfScan h fun s hs => (hstart s).trans hs

/-- Where the bits are after SOS: as they were, but for a latched marker, or reset with the start of a scan (R310). -/
theorem exec_sos_bits {s t : State} (h : exec .sos s = .next t) :
    t.bits = { s.bits with marker := t.bits.marker, noMoreBits := t.bits.noMoreBits } ∨ t.bits = BitMachine.cleared := by
  have hbits : IgnoresBindings State.bits := ⟨fun _ _ _ => rfl, fun _ _ => rfl, fun _ _ _ => rfl, fun _ _ _ => rfl⟩
  have hmarker : Triple (fun u => u.bits = s.bits) (frameMarker 0xDA startOfScan)
      (fun _ u => u.bits = s.bits ∨ u.bits = s.bits.latch 0xDA ∨ u.bits = BitMachine.cleared) (fun _ u => u.bits = s.bits) := by
    intro u hu
    rw [frameMarker, atMarker_apply]
    cases hp : u.phase with
    | frame =>
      exact triple_conseq (triple_startOfScan (Q := fun t => t.bits = BitMachine.cleared) hbits fun _ _ => rfl)
        (fun _ _ hc => .inr (.inr hc)) (fun _ _ he => he) u hu
    | scan => exact .inr (.inl (congrArg (BitMachine.latch 0xDA) hu))
    | soi | header => exact hu
    | idle | finish | output | done | error => exact .inl hu
  have hsame {b : BitMachine} (hb : b = s.bits) : b = { s.bits with marker := b.marker, noMoreBits := b.noMoreBits } := by
    rw [hb]
  rcases hmarker.runOp (s := s) rfl h with (hb | hb | hb) | ⟨e, u, hb, rfl⟩ | ⟨n, rfl⟩
  · exact .inl (hsame hb)
  · exact .inl (by rw [hb]; rfl)
  · exact .inr hb
  · exact .inl (hsame hb)
  · exact .inl rfl

/-- Settles O32: each rule keeps every part of the state that its own updates leave alone. -/
theorem segmentFrames : Obligations.SegmentFrames := by
  refine ⟨fun s t i hi h => ?_, fun s t i hi h => ?_, fun s t h => ?_⟩
  · have hrest : t.segmentFrom .reset = s.segmentFrom .reset :=
      exec_segment_keeps (π := fun s => s.segmentFrom .reset) ⟨fun _ _ _ => rfl, fun _ _ => rfl, fun _ _ => rfl,
        fun _ _ => rfl, fun _ => ⟨fun _ _ _ _ => rfl, fun _ _ => rfl⟩, fun _ => ⟨fun _ _ _ _ => rfl, fun _ _ _ => rfl⟩,
        fun _ _ _ => rfl, fun _ _ _ => rfl⟩ hi h
    have hcomp : t.comp = s.comp := (congrArg State.comp hrest :)
    have halloc : t.planesAllocated = s.planesAllocated := (congrArg State.planesAllocated hrest :)
    refine ⟨State.eq_segmentFrom hrest, fun hne => ?_, fun hne => ?_, fun hne => ?_, fun h0 h14 => ?_, fun c => ?_, fun c => ?_⟩
    · have hq := exec_segment_keeps (π := fun s => (s.qt, s.qtLoaded)) ⟨fun _ _ _ => rfl, fun _ _ => rfl, fun _ _ => rfl,
        fun _ _ => rfl, fun he => absurd he hne, fun _ => ⟨fun _ _ _ _ => rfl, fun _ _ _ => rfl⟩, fun _ _ _ => rfl,
        fun _ _ _ => rfl⟩ hi h
      exact ⟨congrArg Prod.fst hq, congrArg Prod.snd hq⟩
    · have hh := exec_segment_keeps (π := fun s => (s.huff, s.fastAc)) ⟨fun _ _ _ => rfl, fun _ _ => rfl, fun _ _ => rfl,
        fun _ _ => rfl, fun _ => ⟨fun _ _ _ _ => rfl, fun _ _ => rfl⟩, fun he => absurd he hne, fun _ _ _ => rfl,
        fun _ _ _ => rfl⟩ hi h
      exact ⟨congrArg Prod.fst hh, congrArg Prod.snd hh⟩
    · exact exec_segment_keeps (π := State.restartInterval) ⟨fun _ _ _ => rfl, fun _ _ => rfl, fun _ _ => rfl, fun _ _ => rfl,
        fun _ => ⟨fun _ _ _ _ => rfl, fun _ _ => rfl⟩, fun _ => ⟨fun _ _ _ _ => rfl, fun _ _ _ => rfl⟩,
        fun he => absurd he hne, fun _ _ _ => rfl⟩ hi h
    · exact exec_segment_keeps (π := State.flags) ⟨fun _ _ _ => rfl, fun _ _ => rfl, fun _ _ => rfl, fun _ _ => rfl,
        fun _ => ⟨fun _ _ _ _ => rfl, fun _ _ => rfl⟩, fun _ => ⟨fun _ _ _ _ => rfl, fun _ _ _ => rfl⟩, fun _ _ _ => rfl,
        fun he => absurd he (not_or.2 ⟨h0, h14⟩)⟩ hi h
    · exact State.sample_congr halloc (by rw [hcomp]) (by rw [hcomp]) (by rw [hcomp])
    · exact State.coefficient_congr halloc (by rw [hcomp]) (by rw [hcomp]) (by rw [hcomp])
  · have hkeeps (code : Byte) (p : Bool) : Keeps (fun s => s.frameHeaderFrom .reset) (sofMarker code p) :=
      keeps_atMarker (fun _ => rfl) (keeps_frameHeader (fun _ _ _ => rfl) (fun _ _ => rfl) (fun _ _ _ => rfl) (fun _ _ => rfl)
        (fun _ => rfl) (fun _ => rfl) p) (keeps_raise _)
    have hrun {code : Byte} {p : Bool} (hr : runOp (sofMarker code p) s = .next t) : t = s.frameHeaderFrom t :=
      State.eq_frameHeaderFrom ((hkeeps code p).runOp (fun _ => rfl) (fun _ _ => rfl) (fun _ _ => rfl) hr)
    rcases hi with rfl | rfl | rfl <;> exact hrun h
  · have hrest : t.scanHeaderFrom .reset = s.scanHeaderFrom .reset :=
      (keeps_atMarker (fun _ => rfl) (keeps_raise _) (keeps_startOfScan ignoresBindings_scanHeaderFrom fun _ => rfl)).runOp
        (fun _ => rfl) (fun _ _ => rfl) (fun _ _ => rfl) h
    have hbound : t.boundless = s.boundless :=
      (keeps_atMarker (fun _ => rfl) (keeps_raise _)
        (keeps_startOfScan ignoresBindings_boundless State.boundless_resetEntropy)).runOp
        (fun _ => rfl) (fun _ _ => rfl) (fun _ _ => rfl) h
    have hcomp := State.boundless_get hbound
    have halloc : t.planesAllocated = s.planesAllocated := (congrArg State.planesAllocated hrest :)
    exact ⟨exec_sos_bits h, State.eq_scanHeaderFrom hrest, hcomp,
      fun c => State.sample_congr halloc (by rw [hcomp]; rfl) (by rw [hcomp]; rfl) (by rw [hcomp]; rfl),
      fun c => State.coefficient_congr halloc (by rw [hcomp]; rfl) (by rw [hcomp]; rfl) (by rw [hcomp]; rfl)⟩

/-! ### Where an error leaves the stream (R406) -/

/-- `u` is reached from `s` with `k` bytes taken, whatever else has changed. -/
def State.Taken (k : Nat) (s u : State) : Prop :=
  u.bytePos = s.bytePos + BitVec.ofNat 32 k ∧ u.port.input = s.port.input.drop k

theorem State.taken_consumed (s : State) (k : Nat) : s.Taken k (s.consumed k) := ⟨rfl, rfl⟩

theorem State.Taken.trans {s t u : State} {j k : Nat} (h : s.Taken j t) (h' : t.Taken k u) : s.Taken (j + k) u := by
  obtain ⟨hpos, hin⟩ := h
  obtain ⟨hpos', hin'⟩ := h'
  refine ⟨?_, ?_⟩
  · rw [hpos', hpos, BitVec.add_assoc, ← BitVec.ofNat_add]
  · rw [hin', hin, List.drop_drop]

/-! ### DQT: one definition (R217) -/

theorem dezigzag_inj {j k : Nat} (hj : j < 64) (hk : k < 64) (h : dezigzag j = dezigzag k) : j = k := by
  have hnodup : ((List.range 64).map dezigzag).Nodup := by decide
  exact List.inj_on_of_nodup_map hnodup (List.mem_range.2 hj) (List.mem_range.2 hk) h

/-- A quantisation table with values written at the zig-zag positions from `k` on (R103). -/
def putEntries (T : Vector (BitVec 16) 64) (k : Nat) : List (BitVec 16) → Vector (BitVec 16) 64
  | [] => T
  | v :: vs => putEntries (T.set (dezigzag k).val v (dezigzag k).isLt) (k + 1) vs

theorem putEntries_get_below {vs : List (BitVec 16)} {T : Vector (BitVec 16) 64} {j k : Nat} (hfit : k + vs.length ≤ 64) (hj : j < k) :
    (putEntries T k vs).get (dezigzag j) = T.get (dezigzag j) := by
  induction vs generalizing T k with
  | nil => rfl
  | cons v vs ih =>
    rw [List.length_cons] at hfit
    have hne : (dezigzag k).val ≠ (dezigzag j).val := fun he =>
      Nat.ne_of_gt hj (dezigzag_inj (by omega) (by omega) (Fin.ext he))
    rw [putEntries, ih (by omega) (by omega)]
    simp only [Vector.get_eq_getElem, Vector.getElem_set_ne _ _ hne]

/-- Every entry stands at the natural index of its position. -/
theorem putEntries_get {vs : List (BitVec 16)} {T : Vector (BitVec 16) 64} {j k : Nat} {v : BitVec 16}
    (hfit : k + vs.length ≤ 64) (hv : vs[j]? = some v) : (putEntries T k vs).get (dezigzag (k + j)) = v := by
  induction vs generalizing T k j with
  | nil => cases hv
  | cons w vs ih =>
    rw [List.length_cons] at hfit
    cases j with
    | zero =>
      cases hv
      rw [Nat.add_zero, putEntries, putEntries_get_below (by omega) (Nat.lt_succ_self k)]
      simp only [Vector.get_eq_getElem, Vector.getElem_set_self]
    | succ j =>
      rw [putEntries, Nat.add_comm j 1, ← Nat.add_assoc]
      exact ih (by omega) hv

/-- Write a whole quantisation table. -/
def State.putQuant (q : Fin 4) (T : Vector (BitVec 16) 64) (s : State) : State := { s with qt := s.qt.set q.val T q.isLt }

theorem State.putQuant_get (s : State) (q r : Fin 4) (T : Vector (BitVec 16) 64) :
    (s.putQuant q T).qt.get r = if q = r then T else s.qt.get r := by
  simp only [State.putQuant, Vector.get_eq_getElem, Vector.getElem_set, Fin.ext_iff]

@[simp] theorem State.putQuant_putQuant (s : State) (q : Fin 4) (T U : Vector (BitVec 16) 64) :
    (s.putQuant q T).putQuant q U = s.putQuant q U := by
  simp [State.putQuant]

namespace QuantDef

variable (d : QuantDef)

/-- The value an entry of the definition stores (R105). -/
def stored (e : BitVec 16) : BitVec 16 := if d.wide then e else (e.extractLsb' 0 8).zeroExtend 16

theorem length_entryBytes (e : BitVec 16) : (d.entryBytes e).length = 1 + d.wide.toNat := by
  unfold entryBytes
  cases d.wide <;> rfl

theorem length_bytes : d.bytes.length = 65 + 64 * d.wide.toNat := by
  have hsum (es : List (BitVec 16)) : (es.flatMap d.entryBytes).length = es.length * (1 + d.wide.toNat) := by
    induction es with
    | nil => exact (Nat.zero_mul _).symm
    | cons e es ih => rw [List.flatMap_cons, List.length_append, ih, length_entryBytes, List.length_cons, Nat.succ_mul, Nat.add_comm]
  rw [bytes, List.length_cons, hsum, Vector.length_toList]
  omega

/-- The head byte of a definition is its precision and its id (R105). -/
theorem head_toNat : (BitVec.ofNat 8 (16 * d.wide.toNat + d.id.val)).toNat = 16 * d.wide.toNat + d.id.val := by
  have hwide : d.wide.toNat < 2 := d.wide.toNat_lt
  rw [BitVec.toNat_ofNat, Nat.mod_eq_of_lt (by omega)]

/-- The table after the definition. -/
def table (T : Vector (BitVec 16) 64) : Vector (BitVec 16) 64 := putEntries T 0 (d.entries.toList.map d.stored)

theorem table_get (T : Vector (BitVec 16) 64) (k : Fin 64) : (d.table T).get (dezigzag k.val) = d.value k := by
  have hv : (d.entries.toList.map d.stored)[k.val]? = some (d.stored (d.entries.get k)) := by
    simp [Vector.get_eq_getElem]
  have h := putEntries_get (T := T) (k := 0) (by simp) hv
  rwa [Nat.zero_add] at h

end QuantDef

section
variable {s : State} {d : QuantDef} {rest : List Byte}

theorem dqtEntry_ok {e : BitVec 16} (h : s.port.input = d.entryBytes e ++ rest) :
    dqtEntry d.wide.toNat s = .ok (d.stored e) (s.consumed (d.entryBytes e).length) := by
  unfold QuantDef.entryBytes at h ⊢
  unfold dqtEntry QuantDef.stored
  cases hwide : d.wide with
  | true =>
    have hjoin : e.extractLsb' 8 8 ++ e.extractLsb' 0 8 = e := BitVec.extractLsb'_append_extractLsb'
    rw [hwide] at h
    exact (readU16_consumed h).trans (by rw [hjoin]; rfl)
  | false =>
    rw [hwide] at h
    exact seq_bind_ok (readU8_consumed h) _

/-- The entries of a definition, from position `k` on, one after the other. -/
theorem dqtEntries_ok {es : List (BitVec 16)} (q : Fin 4) (k : Nat) (h : s.port.input = es.flatMap d.entryBytes ++ rest) :
    dqtEntries d.wide.toNat q (List.range' k es.length) s =
      .ok () ((s.consumed (es.flatMap d.entryBytes).length).putQuant q (putEntries (s.qt.get q) k (es.map d.stored))) := by
  induction es generalizing s k with
  | nil =>
    refine congrArg (EStateM.Result.ok ()) ?_
    simp [State.putQuant, putEntries, Vector.get_eq_getElem]
  | cons e es ih =>
    have he : s.port.input = d.entryBytes e ++ (es.flatMap d.entryBytes ++ rest) := by simpa using h
    have hrest := ih (s := (s.consumed (d.entryBytes e).length).setQt q (dezigzag k) (d.stored e)) (k + 1)
      (State.consumed_input he)
    have hwhole (U : Vector (BitVec 16) 64) :
        (((s.consumed (d.entryBytes e).length).setQt q (dezigzag k) (d.stored e)).consumed (es.flatMap d.entryBytes).length).putQuant
          q U = ((s.consumed (d.entryBytes e).length).consumed (es.flatMap d.entryBytes).length).putQuant q U :=
      State.putQuant_putQuant ((s.consumed (d.entryBytes e).length).consumed (es.flatMap d.entryBytes).length) q
        ((s.qt.get q).set (dezigzag k).val (d.stored e) (dezigzag k).isLt) U
    have htable : ((s.consumed (d.entryBytes e).length).setQt q (dezigzag k) (d.stored e)).qt.get q =
        (s.qt.get q).set (dezigzag k).val (d.stored e) (dezigzag k).isLt := (State.putQuant_get ..).trans (if_pos rfl)
    rw [List.length_cons, List.range'_succ, dqtEntries, seq_bind_ok (dqtEntry_ok he), upd_bind, hrest, hwhole, htable,
      State.consumed_consumed, List.flatMap_cons, List.length_append]
    rfl

/-- The state after a definition: its bytes taken, its table written and marked loaded (R217). -/
def State.loadQuant (s : State) (d : QuantDef) : State :=
  ((s.consumed d.bytes.length).putQuant d.id (d.table (s.qt.get d.id))).setQtLoaded d.id

theorem dqtTable_ok (h : s.port.input = d.bytes ++ rest) : dqtTable s = .ok (d.bytes.length : Int) (s.loadQuant d) := by
  have hid : d.id.val < 4 := d.id.isLt
  have hprecision : (16 * d.wide.toNat + d.id.val) / 16 = d.wide.toNat := by omega
  have htable : (16 * d.wide.toNat + d.id.val) % 16 = d.id.val := by omega
  have hwide : d.wide.toNat < 2 := d.wide.toNat_lt
  have hfin : Fin.ofNat 4 d.id.val = d.id := Fin.ext (Nat.mod_eq_of_lt hid)
  have hentries := dqtEntries_ok (s := s.consumed 1) (d := d) (rest := rest) (es := d.entries.toList) d.id 0 (State.consumed_input
    (l := [BitVec.ofNat 8 (16 * d.wide.toNat + d.id.val)]) (by rw [h, QuantDef.bytes]; simp))
  rw [Vector.length_toList, ← List.range_eq_range'] at hentries
  have hsize : (if d.wide.toNat = 1 then 129 else 65 : Int) = (d.bytes.length : Int) := by
    rw [QuantDef.length_bytes]
    split <;> omega
  rw [dqtTable, seq_bind_ok (readU8_consumed h), QuantDef.head_toNat, hprecision, htable, hfin, check_bind,
    if_neg (by simpa using Nat.le_of_lt_succ hwide), check_bind, if_neg (by simpa using Nat.le_of_lt_succ hid),
    seq_bind_ok hentries, upd_bind, seq_pure, hsize, State.consumed_consumed, State.loadQuant]
  rw [Nat.add_comm, QuantDef.bytes]
  rfl

theorem dqtTable_badType {q : Byte} (h : s.port.input = q :: rest) (hq : 1 < q.toNat / 16) :
    dqtTable s = .error (.raise .badDqtType) (s.consumed 1) := by
  rw [dqtTable, seq_bind_ok (readU8_consumed h), check_bind, if_pos (decide_eq_true hq)]

theorem dqtTable_badTable {q : Byte} (h : s.port.input = q :: rest) (hq : q.toNat / 16 ≤ 1) (ht : 3 < q.toNat % 16) :
    dqtTable s = .error (.raise .badDqtTable) (s.consumed 1) := by
  rw [dqtTable, seq_bind_ok (readU8_consumed h), check_bind, if_neg (by simpa using hq), check_bind, if_pos (decide_eq_true ht)]

end

/-! ### DQT: the segment (R217) -/

/-- The state after some definitions. -/
def State.loadQuants (s : State) (ds : List QuantDef) : State := ds.foldl State.loadQuant s

section
variable {s : State} {ds : List QuantDef} {rest : List Byte}

theorem State.loadQuants_append (s : State) (ds es : List QuantDef) :
    s.loadQuants (ds ++ es) = (s.loadQuants ds).loadQuants es := List.foldl_append

/-- The definitions take their bytes and write the quantisation tables, and nothing else. -/
theorem State.loadQuants_eq (s : State) (ds : List QuantDef) :
    s.loadQuants ds = { s.consumed (ds.flatMap QuantDef.bytes).length with
      qt := (s.loadQuants ds).qt, qtLoaded := (s.loadQuants ds).qtLoaded } := by
  induction ds generalizing s with
  | nil => rw [List.flatMap_nil, List.length_nil, State.consumed_zero]; rfl
  | cons d ds ih =>
    have hstep : s.loadQuants (d :: ds) = (s.loadQuant d).loadQuants ds := rfl
    have hconsumed : (s.loadQuant d).consumed (ds.flatMap QuantDef.bytes).length =
        { (s.consumed d.bytes.length).consumed (ds.flatMap QuantDef.bytes).length with
          qt := (s.loadQuant d).qt, qtLoaded := (s.loadQuant d).qtLoaded } := rfl
    rw [List.flatMap_cons, List.length_append, hstep, ih, hconsumed, State.consumed_consumed]

theorem State.taken_loadQuants (s : State) (ds : List QuantDef) :
    s.Taken (ds.flatMap QuantDef.bytes).length (s.loadQuants ds) := by
  rw [State.loadQuants_eq]
  exact ⟨rfl, rfl⟩

theorem State.loadQuants_input (h : s.port.input = ds.flatMap QuantDef.bytes ++ rest) : (s.loadQuants ds).port.input = rest := by
  rw [(s.taken_loadQuants ds).2, h, List.drop_left]

/-- A table that no definition names. -/
theorem State.loadQuants_other {q : Fin 4} (h : ∀ d ∈ ds, d.id ≠ q) :
    (s.loadQuants ds).qt.get q = s.qt.get q ∧ (s.loadQuants ds).qtLoaded.get q = s.qtLoaded.get q := by
  induction ds generalizing s with
  | nil => exact ⟨rfl, rfl⟩
  | cons d ds ih =>
    have hd : d.id ≠ q := h d (List.mem_cons_self ..)
    obtain ⟨hqt, hloaded⟩ := ih (s := s.loadQuant d) fun e he => h e (List.mem_cons_of_mem _ he)
    refine ⟨hqt.trans ((State.putQuant_get ..).trans (if_neg hd)), hloaded.trans ?_⟩
    have hval : d.id.val ≠ q.val := fun he => hd (Fin.ext he)
    simp only [State.loadQuant, State.setQtLoaded, Vector.get_eq_getElem, Vector.getElem_set_ne _ _ hval]
    rfl

/-- The table of the last definition that names it. -/
theorem State.loadQuants_last {pre post : List QuantDef} {d : QuantDef} (h : ∀ e ∈ post, e.id ≠ d.id) :
    (s.loadQuants (pre ++ d :: post)).qtLoaded.get d.id = true ∧
      ∀ k : Fin 64, ((s.loadQuants (pre ++ d :: post)).qt.get d.id).get (dezigzag k.val) = d.value k := by
  have hsplit : s.loadQuants (pre ++ d :: post) = ((s.loadQuants pre).loadQuant d).loadQuants post := s.loadQuants_append _ _
  obtain ⟨hqt, hloaded⟩ := State.loadQuants_other (s := (s.loadQuants pre).loadQuant d) h
  rw [hsplit, hqt, hloaded]
  refine ⟨by simp [State.loadQuant, State.setQtLoaded, Vector.get_eq_getElem], fun k => ?_⟩
  have htable : ((s.loadQuants pre).loadQuant d).qt.get d.id = d.table ((s.loadQuants pre).qt.get d.id) :=
    (State.putQuant_get ..).trans (if_pos rfl)
  rw [htable, d.table_get]

theorem dqtLoop_done {n : Nat} {L : Int} (hL : L ≤ 0) : dqtLoop n L s = .ok L s := by
  cases n with
  | zero => rfl
  | succ n => rw [dqtLoop, if_neg (Int.not_lt.2 hL)]; rfl

theorem dqtLoop_succ {t : State} {n : Nat} {L size : Int} (hL : 0 < L) (h : dqtTable s = .ok size t) :
    dqtLoop (n + 1) L s = dqtLoop n (L - size) t := by
  rw [dqtLoop, if_pos hL, seq_bind_ok h]

theorem dqtLoop_error {t : State} {n : Nat} {L : Int} {e : Stop} (hL : 0 < L) (h : dqtTable s = .error e t) :
    dqtLoop (n + 1) L s = .error e t := by
  rw [dqtLoop, if_pos hL, seq_bind_error h]

/-- The loop takes the definitions that the length covers, one a round; the rounds that are left bound the length that is left. -/
theorem dqtLoop_defs {n : Nat} {L : Int} (hL : (ds.flatMap QuantDef.bytes).length ≤ L) (hn : L ≤ n)
    (h : s.port.input = ds.flatMap QuantDef.bytes ++ rest) :
    ∃ m : Nat, L - (ds.flatMap QuantDef.bytes).length ≤ m ∧
      dqtLoop n L s = dqtLoop m (L - (ds.flatMap QuantDef.bytes).length) (s.loadQuants ds) := by
  induction ds generalizing s n L with
  | nil => exact ⟨n, by simpa using hn, by rw [List.flatMap_nil, List.length_nil, Int.natCast_zero, Int.sub_zero]; rfl⟩
  | cons d ds ih =>
    rw [List.flatMap_cons, List.length_append] at hL ⊢
    have hd : s.port.input = d.bytes ++ (ds.flatMap QuantDef.bytes ++ rest) := by simpa using h
    have hlen := d.length_bytes
    obtain ⟨n, rfl⟩ := Nat.exists_eq_add_of_le' (show 1 ≤ n by omega)
    obtain ⟨m, hm, hloop⟩ := ih (s := s.loadQuant d) (n := n) (L := L - d.bytes.length) (by omega) (by omega)
      (State.consumed_input hd)
    refine ⟨m, by omega, ?_⟩
    rw [dqtLoop_succ (by omega) (dqtTable_ok hd), hloop, Int.sub_sub, Int.natCast_add]
    rfl

variable {a b : Byte} {m : Seq Unit}

/-- The segment, once its definitions have been taken. -/
theorem segDqt_defs (hL : (ds.flatMap QuantDef.bytes).length + 2 ≤ (a ++ b : BitVec 16).toNat)
    (h : s.port.input = a :: b :: (ds.flatMap QuantDef.bytes ++ rest)) :
    ∃ m : Nat, ((a ++ b : BitVec 16).toNat : Int) - 2 - (ds.flatMap QuantDef.bytes).length ≤ m ∧
      segDqt s = (do
        let L ← dqtLoop m (((a ++ b : BitVec 16).toNat : Int) - 2 - (ds.flatMap QuantDef.bytes).length)
        check (L != 0) .badDqtLength : Seq Unit) ((s.consumed 2).loadQuants ds) := by
  obtain ⟨m, hm, hloop⟩ := dqtLoop_defs (s := s.consumed 2) (n := (a ++ b : BitVec 16).toNat)
    (L := ((a ++ b : BitVec 16).toNat : Int) - 2) (by omega) (by omega) (State.consumed_input (l := [a, b]) h)
  refine ⟨m, hm, ?_⟩
  rw [segDqt, seq_bind_ok (readU16_consumed h), seq_bind, seq_bind, hloop]

end

/-- Settles O26: the loop takes the definitions one after the other; what stands behind them decides. -/
theorem quantTablesLoaded : Obligations.QuantTablesLoaded := by
  refine ⟨fun s ds rest a b hp hL h => ?_, fun s ds rest a b q hp => ?_⟩
  · obtain ⟨m, -, hseg⟩ := segDqt_defs (s := s.unheld) (by omega) h
    have hleft : ((a ++ b : BitVec 16).toNat : Int) - 2 - (ds.flatMap QuantDef.bytes).length = 0 := by omega
    rw [hleft, seq_bind_ok (dqtLoop_done (Int.le_refl 0))] at hseg
    have hstate := (s.unheld.consumed 2).loadQuants_eq ds
    rw [State.consumed_consumed] at hstate
    refine ⟨_, runOp_segmentMarker_ok hp hseg, ?_, fun q hq => State.loadQuants_other hq, ?_⟩
    · rw [hstate]
      rfl
    · rintro pre post d rfl hpost
      exact State.loadQuants_last hpost
  · intro L taken fails
    refine ⟨fun h hL => ?_, fun h hL => ?_, ?_⟩
    · have hseg : segDqt s.unheld = .error (.raise .badDqtLength) (s.unheld.consumed 2) := by
        rw [segDqt, seq_bind_ok (readU16_consumed (s := s.unheld) h), seq_bind_ok (dqtLoop_done (by omega)), check_apply,
          if_pos (bne_iff_ne.2 (by omega))]
      exact ⟨_, runOp_segmentMarker_raise hp hseg, rfl, rfl, rfl, rfl, rfl⟩
    · obtain ⟨m, hm, hseg⟩ := segDqt_defs (s := s.unheld) (by omega) h
      obtain ⟨m, rfl⟩ := Nat.exists_eq_add_of_le' (show 1 ≤ m by omega)
      have htaken : s.Taken (taken + 1) (((s.unheld.consumed 2).loadQuants ds).consumed 1) :=
        (((s.unheld.taken_consumed 2).trans (State.taken_loadQuants _ ds)).trans (State.taken_consumed _ 1))
      have hhead := State.loadQuants_input (s := s.unheld.consumed 2) (State.consumed_input (l := [a, b]) h)
      have hleft : 0 < ((a ++ b : BitVec 16).toNat : Int) - 2 - (ds.flatMap QuantDef.bytes).length := by omega
      refine ⟨fun hq => ?_, fun hq ht => ?_⟩
      · have hraise := hseg.trans (seq_bind_error (dqtLoop_error hleft (dqtTable_badType hhead hq)) _)
        exact ⟨_, runOp_segmentMarker_raise hp hraise, rfl, rfl, rfl, htaken.1, htaken.2⟩
      · have hraise := hseg.trans (seq_bind_error (dqtLoop_error hleft (dqtTable_badTable hhead hq ht)) _)
        exact ⟨_, runOp_segmentMarker_raise hp hraise, rfl, rfl, rfl, htaken.1, htaken.2⟩
    · rintro pre d rfl h hL hover
      have hbytes : (pre ++ [d]).flatMap QuantDef.bytes = pre.flatMap QuantDef.bytes ++ d.bytes := by simp
      have hlen : taken = 2 + (pre.flatMap QuantDef.bytes).length + d.bytes.length := by
        simp only [taken, hbytes, List.length_append, Nat.add_assoc]
      rw [hbytes, List.append_assoc] at h
      obtain ⟨m, hm, hseg⟩ := segDqt_defs (s := s.unheld) (by omega) h
      obtain ⟨m, rfl⟩ := Nat.exists_eq_add_of_le' (show 1 ≤ m by omega)
      have hnext := State.loadQuants_input (s := s.unheld.consumed 2) (State.consumed_input (l := [a, b]) h)
      have htaken : s.Taken taken (((s.unheld.consumed 2).loadQuants pre).loadQuant d) := by
        rw [hlen]
        exact ((s.unheld.taken_consumed 2).trans (State.taken_loadQuants _ pre)).trans ⟨rfl, rfl⟩
      have hloop := (dqtLoop_succ (n := m) (L := ((a ++ b : BitVec 16).toNat : Int) - 2 - (pre.flatMap QuantDef.bytes).length)
        (by omega) (dqtTable_ok hnext)).trans (dqtLoop_done (by omega))
      rw [seq_bind_ok hloop, check_apply, if_pos (bne_iff_ne.2 (by omega))] at hseg
      exact ⟨_, runOp_segmentMarker_raise hp hseg, rfl, rfl, rfl, htaken.1, htaken.2⟩

/-! ### DHT: one definition (R218) -/

theorem State.huffAt_setHuff_ne (s : State) {tc tc' : Fin 2} {th th' : Fin 4} (h : ¬(tc = tc' ∧ th = th')) (T : HuffTable) :
    (s.setHuff tc th T).huffAt tc' th' = s.huffAt tc' th' := by
  simp only [State.huffAt, State.setHuff, Vector.get_eq_getElem, Vector.getElem_set]
  by_cases htc : tc = tc'
  · subst htc
    have hth : th.val ≠ th'.val := fun he => h ⟨rfl, Fin.ext he⟩
    rw [if_pos rfl, Vector.getElem_set_ne _ _ hth]
  · rw [if_neg fun he => htc (Fin.ext he)]

/-- A table written back as it is. -/
theorem State.setHuff_huffAt (s : State) (tc : Fin 2) (th : Fin 4) : s.setHuff tc th (s.huffAt tc th) = s := by
  simp [State.setHuff, State.huffAt, Vector.get_eq_getElem]

theorem State.setFastAc_get (s : State) (th th' : Fin 4) (f : Vector (BitVec 16) 512) :
    (s.setFastAc th f).fastAc.get th' = if th = th' then f else s.fastAc.get th' := by
  simp only [State.setFastAc, Vector.get_eq_getElem, Vector.getElem_set, Fin.ext_iff]

theorem State.setFastAc_fastAc_get (s : State) (th : Fin 4) : s.setFastAc th (s.fastAc.get th) = s := by
  simp [State.setFastAc, Vector.get_eq_getElem]

section
variable {s : State} {tc : Fin 2} {th : Fin 4} {counts : Vector Byte 16} {rest : List Byte}

theorem hufBuild_ok (h : ValidCounts counts) :
    hufBuild tc th counts s = .ok () (s.setHuff tc th (builtTable counts (s.huffAt tc th))) := by
  rw [hufBuild, look_bind, if_neg (Nat.not_lt.2 h.1), buildCodes_of_valid (sized_buildSizes h.1 _) h, upd_bind, check_bind,
    if_neg Bool.false_ne_true, upd_apply, State.setHuff_setHuff, builtTable]
  rfl

theorem hufBuild_refused (hsum : countSum counts ≤ 256) (h : ¬ValidCounts counts) :
    hufBuild tc th counts s =
      .error (.raise .badCodeLengths) (s.setHuff tc th (buildCodes (buildSizes counts (s.huffAt tc th))).1) := by
  obtain ⟨hraise, -⟩ := buildCodes_of_not_valid (sized_buildSizes hsum (s.huffAt tc th)) hsum h
  rw [hufBuild, look_bind, if_neg (Nat.not_lt.2 hsum), upd_bind, hraise, check_true, raise_bind]

/-- The fast-AC table of a table (R155). -/
def fastAcTable (T : HuffTable) : Vector (BitVec 16) 512 := Vector.ofFn fun c : Fin 512 => fastAcEntry T c.val

theorem fastacBuild_ok (h : (s.huffAt 1 th).loaded = true) :
    fastacBuild th s = .ok () (s.setFastAc th (fastAcTable (s.huffAt 1 th))) := by
  rw [fastacBuild, seq_bind_ok (loadedHuff_loaded h)]
  rfl

/-- The table with its first symbol values read (R218). -/
def HuffTable.withValues (T : HuffTable) (i : Nat) (l : List Byte) : HuffTable := { T with values := putFrom T.values i l }

theorem dhtValues_ok {l : List Byte} (i : Nat) (h : s.port.input = l ++ rest) :
    dhtValues tc th i l.length s = .ok () ((s.consumed l.length).setHuff tc th ((s.huffAt tc th).withValues i l)) := by
  induction l generalizing s i with
  | nil =>
    have hsame : (s.huffAt tc th).withValues i [] = s.huffAt tc th := rfl
    rw [hsame, List.length_nil, State.consumed_zero, State.setHuff_huffAt]
    rfl
  | cons v l ih =>
    have hv : s.port.input = v :: (l ++ rest) := h
    have hrest := ih (s := (s.consumed 1).setHuff tc th { s.huffAt tc th with values := put (s.huffAt tc th).values i v }) (i + 1)
      (State.consumed_input (l := [v]) hv)
    have hwhole (T U : HuffTable) :
        (((s.consumed 1).setHuff tc th T).consumed l.length).setHuff tc th U = ((s.consumed 1).consumed l.length).setHuff tc th U :=
      State.setHuff_setHuff ((s.consumed 1).consumed l.length) tc th T U
    rw [List.length_cons, dhtValues, seq_bind_ok (readU8_consumed hv), upd_bind]
    refine hrest.trans ?_
    rw [State.huffAt_setHuff, hwhole, State.consumed_consumed, Nat.add_comm 1]
    rfl

theorem countsOf_toList (counts : Vector Byte 16) : countsOf counts.toList = counts := by
  refine Vector.ext fun i hi => ?_
  simp [countsOf]

end

/-- The table's entry before it is built: unloaded, with the values of the definition (R218). -/
def HuffDef.entry (d : HuffDef) (T : HuffTable) : HuffTable := HuffTable.withValues { T with loaded := false } 0 d.values

/-- The state in which a definition's table is built: its bytes taken, its values read (R218). -/
def State.readDef (s : State) (d : HuffDef) : State :=
  (s.consumed (17 + d.values.length)).setHuff d.tc d.th (d.entry (s.huffAt d.tc d.th))

/-- The state after a definition with its table built (R218, R156). -/
def State.buildDef (s : State) (d : HuffDef) : State :=
  (s.readDef d).setHuff d.tc d.th (builtTable d.counts (d.entry (s.huffAt d.tc d.th)))

/-- The state after a definition (R218, R155). -/
def State.loadHuff (s : State) (d : HuffDef) : State :=
  if d.tc = 1 then (s.buildDef d).setFastAc d.th (fastAcTable ((s.buildDef d).huffAt 1 d.th)) else s.buildDef d

theorem HuffDef.length_bytes (d : HuffDef) : d.bytes.length = 17 + d.values.length := by
  rw [HuffDef.bytes, List.length_cons, List.length_append, Vector.length_toList]
  omega

/-- The head byte of a definition is its class and its id (R106). -/
theorem HuffDef.head_toNat (d : HuffDef) : (BitVec.ofNat 8 (16 * d.tc.val + d.th.val)).toNat = 16 * d.tc.val + d.th.val := by
  rw [BitVec.toNat_ofNat, Nat.mod_eq_of_lt (by omega)]

section
variable {s : State} {d : HuffDef} {rest : List Byte}

theorem dhtTable_badHead {q : Byte} (h : s.port.input = q :: rest) (hq : 1 < q.toNat / 16 ∨ 3 < q.toNat % 16) :
    dhtTable s = .error (.raise .badDhtHeader) (s.consumed 1) := by
  rw [dhtTable, seq_bind_ok (readU8_consumed h), check_bind, if_pos (by simpa using hq)]

/-- A definition up to its sum (R218). -/
theorem dhtTable_counts {q : Byte} {counts : Vector Byte 16} (h : s.port.input = q :: (counts.toList ++ rest))
    (htc : q.toNat / 16 ≤ 1) (hth : q.toNat % 16 ≤ 3) (hsum : 256 < countSum counts) :
    dhtTable s = .error (.raise .badDhtHeader) (s.consumed 17) := by
  have hcounts : (s.consumed 1).port.input = counts.toList ++ rest := State.consumed_input (l := [q]) h
  have hread := readBytes_consumed hcounts
  rw [Vector.length_toList, State.consumed_consumed] at hread
  rw [dhtTable, seq_bind_ok (readU8_consumed h), check_bind, if_neg (by simpa using And.intro htc hth), seq_bind_ok hread,
    countsOf_toList, check_bind, if_pos (decide_eq_true hsum)]

/-- A definition up to its build (R218). -/
theorem dhtTable_read (hsum : countSum d.counts ≤ 256) (hlen : d.values.length = countSum d.counts)
    (h : s.port.input = d.bytes ++ rest) :
    dhtTable s = (do
      hufBuild d.tc d.th d.counts
      onlyIf (d.tc.val == 1) (fastacBuild d.th)
      pure (d.bytes.length : Int) : Seq Int) (s.readDef d) := by
  have htc : (16 * d.tc.val + d.th.val) / 16 = d.tc.val := by omega
  have hth : (16 * d.tc.val + d.th.val) % 16 = d.th.val := by omega
  have hfin2 : Fin.ofNat 2 d.tc.val = d.tc := Fin.ext (Nat.mod_eq_of_lt d.tc.isLt)
  have hfin4 : Fin.ofNat 4 d.th.val = d.th := Fin.ext (Nat.mod_eq_of_lt d.th.isLt)
  have hhead : s.port.input = BitVec.ofNat 8 (16 * d.tc.val + d.th.val) :: (d.counts.toList ++ (d.values ++ rest)) := by
    rw [h, HuffDef.bytes, List.cons_append, List.append_assoc]
  have hcounts : (s.consumed 1).port.input = d.counts.toList ++ (d.values ++ rest) := State.consumed_input (l := [_]) hhead
  have hread := readBytes_consumed hcounts
  have hvalues := State.consumed_input hcounts
  rw [Vector.length_toList, State.consumed_consumed] at hread hvalues
  have hloop := dhtValues_ok (s := (s.consumed 17).setHuff d.tc d.th { s.huffAt d.tc d.th with loaded := false })
    (tc := d.tc) (th := d.th) 0 hvalues
  rw [hlen] at hloop
  have hsize : (17 + (countSum d.counts : Int)) = (d.bytes.length : Int) := by
    rw [d.length_bytes, hlen]
    omega
  have hstate : (((s.consumed 17).setHuff d.tc d.th { s.huffAt d.tc d.th with loaded := false }).consumed
      (countSum d.counts)).setHuff d.tc d.th (d.entry (s.huffAt d.tc d.th)) = s.readDef d := by
    rw [State.readDef, hlen, ← State.consumed_consumed]
    exact State.setHuff_setHuff ((s.consumed 17).consumed (countSum d.counts)) d.tc d.th _ _
  rw [dhtTable, seq_bind_ok (readU8_consumed hhead), HuffDef.head_toNat, htc, hth, hfin2, hfin4, check_bind,
    if_neg (by have := d.tc.isLt; have := d.th.isLt; simp; omega), seq_bind_ok hread, countsOf_toList, check_bind,
    if_neg (by simpa using hsum), upd_bind, hsize]
  refine (seq_bind_ok hloop _).trans ?_
  rw [State.huffAt_setHuff]
  exact congrArg _ hstate

theorem dhtTable_ok (hd : d.Valid) (h : s.port.input = d.bytes ++ rest) :
    dhtTable s = .ok (d.bytes.length : Int) (s.loadHuff d) := by
  obtain ⟨hvalid, hlen⟩ := hd
  rw [dhtTable_read hvalid.1 hlen h, seq_bind_ok (hufBuild_ok hvalid)]
  have hentry : (s.readDef d).huffAt d.tc d.th = d.entry (s.huffAt d.tc d.th) := State.huffAt_setHuff ..
  rw [hentry, ← State.buildDef, State.loadHuff]
  by_cases htc : d.tc = 1
  · have hloaded : ((s.buildDef d).huffAt 1 d.th).loaded = true := by
      rw [← htc, State.buildDef, State.huffAt_setHuff, loaded_builtTable]
    rw [if_pos htc, show (d.tc.val == 1) = true by rw [htc]; rfl, onlyIf_true, seq_bind_ok (fastacBuild_ok hloaded)]
    rfl
  · have hne : (d.tc.val == 1) = false := beq_false_of_ne fun he => htc (Fin.ext he)
    rw [if_neg htc, hne]
    rfl

/-- Counts that R151 refuses: the values have been read, and the table is left unloaded. -/
theorem dhtTable_refused (hsum : countSum d.counts ≤ 256) (hlen : d.values.length = countSum d.counts)
    (hd : ¬ValidCounts d.counts) (h : s.port.input = d.bytes ++ rest) :
    ∃ T : HuffTable, T.loaded = false ∧
      dhtTable s = .error (.raise .badCodeLengths) ((s.readDef d).setHuff d.tc d.th T) := by
  have hentry : (s.readDef d).huffAt d.tc d.th = d.entry (s.huffAt d.tc d.th) := State.huffAt_setHuff ..
  obtain ⟨-, hloaded, -⟩ := buildCodes_of_not_valid
    (sized_buildSizes hsum ((s.readDef d).huffAt d.tc d.th)) hsum hd
  refine ⟨_, hloaded.trans ?_, (dhtTable_read hsum hlen h).trans (seq_bind_error (hufBuild_refused hsum hd) _)⟩
  rw [hentry]
  rfl

theorem State.loadHuff_eq (s : State) (d : HuffDef) :
    s.loadHuff d = { s.consumed d.bytes.length with huff := (s.loadHuff d).huff, fastAc := (s.loadHuff d).fastAc } := by
  rw [d.length_bytes, State.loadHuff]
  split <;> rfl

theorem State.loadHuff_huffAt (s : State) (d : HuffDef) (tc : Fin 2) (th : Fin 4) :
    (s.loadHuff d).huffAt tc th = (s.buildDef d).huffAt tc th := by
  rw [State.loadHuff]
  split <;> rfl

/-- The table of a definition is loaded from it (R150, R151, R218). -/
theorem State.loadHuff_same (s : State) (hd : d.Valid) : ((s.loadHuff d).huffAt d.tc d.th).LoadedFrom d := by
  obtain ⟨hvalid, hlen⟩ := hd
  have hsum := hvalid.1
  rw [State.loadHuff_huffAt, State.buildDef, State.huffAt_setHuff]
  refine ⟨loaded_builtTable, (nsym_builtTable hvalid).trans hlen.symm, fun i hi => ?_, canonical_builtTable hvalid⟩
  have hput := at?_putFrom (s.huffAt d.tc d.th).values (k := 0) (List.getElem?_eq_getElem hi) (by omega) 0
  rw [Nat.zero_add] at hput
  rw [values_builtTable, List.getD_eq_getElem _ _ hi]
  exact hput

/-- A definition leaves every other table as it was. -/
theorem State.loadHuff_other (s : State) {tc : Fin 2} {th : Fin 4} (h : ¬(d.tc = tc ∧ d.th = th)) :
    (s.loadHuff d).huffAt tc th = s.huffAt tc th := by
  rw [State.loadHuff_huffAt, State.buildDef, State.huffAt_setHuff_ne _ h, State.readDef, State.huffAt_setHuff_ne _ h]
  rfl

/-- A fast-AC table that is defined is that of its table; every other is as it was. -/
theorem State.loadHuff_fastAc (s : State) (d : HuffDef) (th : Fin 4) :
    (s.loadHuff d).fastAc.get th =
      if d.tc = 1 ∧ d.th = th then fastAcTable ((s.loadHuff d).huffAt 1 th) else s.fastAc.get th := by
  rw [State.loadHuff_huffAt, State.loadHuff]
  by_cases htc : d.tc = 1
  · rw [if_pos htc, State.setFastAc_get]
    by_cases hth : d.th = th
    · rw [if_pos hth, if_pos ⟨htc, hth⟩, hth]
    · rw [if_neg hth, if_neg fun h => hth h.2]
      rfl
  · rw [if_neg htc, if_neg fun h => htc h.1]
    rfl

end

/-! ### DHT: the segment (R218) -/

/-- The state after some definitions. -/
def State.loadHuffs (s : State) (ds : List HuffDef) : State := ds.foldl State.loadHuff s

section
variable {s : State} {ds : List HuffDef} {rest : List Byte}

theorem State.loadHuffs_concat (s : State) (ds : List HuffDef) (d : HuffDef) :
    s.loadHuffs (ds ++ [d]) = (s.loadHuffs ds).loadHuff d := List.foldl_append

/-- The definitions take their bytes and write the Huffman and fast-AC tables, and nothing else. -/
theorem State.loadHuffs_eq (s : State) (ds : List HuffDef) :
    s.loadHuffs ds = { s.consumed (ds.flatMap HuffDef.bytes).length with
      huff := (s.loadHuffs ds).huff, fastAc := (s.loadHuffs ds).fastAc } := by
  induction ds generalizing s with
  | nil => rw [List.flatMap_nil, List.length_nil, State.consumed_zero]; rfl
  | cons d ds ih =>
    have hstep : s.loadHuffs (d :: ds) = (s.loadHuff d).loadHuffs ds := rfl
    have hconsumed : (s.loadHuff d).consumed (ds.flatMap HuffDef.bytes).length =
        { (s.consumed d.bytes.length).consumed (ds.flatMap HuffDef.bytes).length with
          huff := (s.loadHuff d).huff, fastAc := (s.loadHuff d).fastAc } := by
      rw [State.loadHuff_eq]
      rfl
    rw [List.flatMap_cons, List.length_append, hstep, ih, hconsumed, State.consumed_consumed]

theorem State.taken_loadHuffs (s : State) (ds : List HuffDef) :
    s.Taken (ds.flatMap HuffDef.bytes).length (s.loadHuffs ds) := by
  rw [State.loadHuffs_eq]
  exact ⟨rfl, rfl⟩

theorem State.loadHuffs_input (h : s.port.input = ds.flatMap HuffDef.bytes ++ rest) : (s.loadHuffs ds).port.input = rest := by
  rw [(s.taken_loadHuffs ds).2, h, List.drop_left]

theorem lastDef_concat (tc : Fin 2) (th : Fin 4) (ds : List HuffDef) (d : HuffDef) :
    lastDef tc th (ds ++ [d]) = if d.tc = tc ∧ d.th = th then some d else lastDef tc th ds := by
  unfold lastDef
  rw [List.filter_append, List.filter_singleton]
  by_cases hd : d.tc = tc ∧ d.th = th
  · rw [if_pos hd, hd.1, hd.2, beq_self_eq_true, beq_self_eq_true]
    exact List.getLast?_concat ..
  · have hne : (d.tc == tc && d.th == th) = false := by simpa using hd
    rw [if_neg hd, hne]
    exact congrArg List.getLast? (List.append_nil _)

/-- Each table is loaded from the last definition that names it. -/
theorem State.tableAfter_loadHuffs (hds : ∀ d ∈ ds, d.Valid) (tc : Fin 2) (th : Fin 4) :
    s.TableAfter ds (s.loadHuffs ds) tc th := by
  induction ds using List.reverseRecOn with
  | nil => exact rfl
  | append_singleton ds d ih =>
    unfold State.TableAfter
    rw [lastDef_concat, State.loadHuffs_concat]
    split_ifs with hd
    · obtain ⟨rfl, rfl⟩ := hd
      exact State.loadHuff_same _ (hds d (by simp))
    · rw [State.loadHuff_other _ hd]
      exact ih fun e he => hds e (List.mem_append_left _ he)

/-- Each fast-AC table is that of its table if a definition names it, else it is as it was. -/
theorem State.fastAc_loadHuffs (s : State) (ds : List HuffDef) (th : Fin 4) :
    (s.loadHuffs ds).fastAc.get th =
      if lastDef 1 th ds = none then s.fastAc.get th else fastAcTable ((s.loadHuffs ds).huffAt 1 th) := by
  induction ds using List.reverseRecOn with
  | nil => exact rfl
  | append_singleton ds d ih =>
    rw [lastDef_concat, State.loadHuffs_concat, State.loadHuff_fastAc]
    by_cases hd : d.tc = 1 ∧ d.th = th
    · rw [if_pos hd, if_pos hd, if_neg (by simp)]
    · rw [if_neg hd, if_neg hd, ih, State.loadHuff_other _ hd]

theorem dhtLoop_done {n : Nat} {L : Int} (hL : L ≤ 0) : dhtLoop n L s = .ok L s := by
  cases n with
  | zero => rfl
  | succ n => rw [dhtLoop, if_neg (Int.not_lt.2 hL)]; rfl

theorem dhtLoop_succ {t : State} {n : Nat} {L size : Int} (hL : 0 < L) (h : dhtTable s = .ok size t) :
    dhtLoop (n + 1) L s = dhtLoop n (L - size) t := by
  rw [dhtLoop, if_pos hL, seq_bind_ok h]

theorem dhtLoop_error {t : State} {n : Nat} {L : Int} {e : Stop} (hL : 0 < L) (h : dhtTable s = .error e t) :
    dhtLoop (n + 1) L s = .error e t := by
  rw [dhtLoop, if_pos hL, seq_bind_error h]

/-- The loop takes the definitions that the length covers, one a round; the rounds that are left bound the length that is left. -/
theorem dhtLoop_defs {n : Nat} {L : Int} (hds : ∀ d ∈ ds, d.Valid) (hL : (ds.flatMap HuffDef.bytes).length ≤ L) (hn : L ≤ n)
    (h : s.port.input = ds.flatMap HuffDef.bytes ++ rest) :
    ∃ m : Nat, L - (ds.flatMap HuffDef.bytes).length ≤ m ∧
      dhtLoop n L s = dhtLoop m (L - (ds.flatMap HuffDef.bytes).length) (s.loadHuffs ds) := by
  induction ds generalizing s n L with
  | nil => exact ⟨n, by simpa using hn, by rw [List.flatMap_nil, List.length_nil, Int.natCast_zero, Int.sub_zero]; rfl⟩
  | cons d ds ih =>
    rw [List.flatMap_cons, List.length_append] at hL ⊢
    have hd : s.port.input = d.bytes ++ (ds.flatMap HuffDef.bytes ++ rest) := by simpa using h
    have hlen := d.length_bytes
    obtain ⟨n, rfl⟩ := Nat.exists_eq_add_of_le' (show 1 ≤ n by omega)
    have hnext : (s.loadHuff d).port.input = ds.flatMap HuffDef.bytes ++ rest := by
      rw [State.loadHuff_eq]
      exact State.consumed_input hd
    obtain ⟨m, hm, hloop⟩ := ih (s := s.loadHuff d) (n := n) (L := L - d.bytes.length)
      (fun e he => hds e (List.mem_cons_of_mem _ he)) (by omega) (by omega) hnext
    refine ⟨m, by omega, ?_⟩
    rw [dhtLoop_succ (by omega) (dhtTable_ok (hds d (List.mem_cons_self ..)) hd), hloop, Int.sub_sub, Int.natCast_add]
    rfl

/-- The segment, once its definitions have been taken. -/
theorem segDht_defs {a b : Byte} (hds : ∀ d ∈ ds, d.Valid)
    (hL : (ds.flatMap HuffDef.bytes).length + 2 ≤ (a ++ b : BitVec 16).toNat)
    (h : s.port.input = a :: b :: (ds.flatMap HuffDef.bytes ++ rest)) :
    ∃ m : Nat, ((a ++ b : BitVec 16).toNat : Int) - 2 - (ds.flatMap HuffDef.bytes).length ≤ m ∧
      segDht s = (do
        let L ← dhtLoop m (((a ++ b : BitVec 16).toNat : Int) - 2 - (ds.flatMap HuffDef.bytes).length)
        check (L != 0) .badDhtLength : Seq Unit) ((s.consumed 2).loadHuffs ds) := by
  obtain ⟨m, hm, hloop⟩ := dhtLoop_defs (s := s.consumed 2) (n := (a ++ b : BitVec 16).toNat)
    (L := ((a ++ b : BitVec 16).toNat : Int) - 2) hds (by omega) (by omega) (State.consumed_input (l := [a, b]) h)
  refine ⟨m, hm, ?_⟩
  rw [segDht, seq_bind_ok (readU16_consumed h), seq_bind, seq_bind, hloop]

/-- Where an error finds the segment after its definitions: whatever the next definition raises is the segment's error. -/
theorem segDht_raise {a b : Byte} (hds : ∀ d ∈ ds, d.Valid)
    (hL : 2 + (ds.flatMap HuffDef.bytes).length < (a ++ b : BitVec 16).toNat)
    (h : s.port.input = a :: b :: (ds.flatMap HuffDef.bytes ++ rest)) :
    ((s.consumed 2).loadHuffs ds).port.input = rest ∧
      ∀ (e : Stop) (t : State), dhtTable ((s.consumed 2).loadHuffs ds) = .error e t → segDht s = .error e t := by
  obtain ⟨m, hm, hseg⟩ := segDht_defs hds (by omega) h
  obtain ⟨m, rfl⟩ := Nat.exists_eq_add_of_le' (show 1 ≤ m by omega)
  refine ⟨State.loadHuffs_input (State.consumed_input (l := [a, b]) h), fun e t herror => ?_⟩
  exact hseg.trans (seq_bind_error (dhtLoop_error (by omega) herror) _)

theorem State.taken_segDht (s : State) (ds : List HuffDef) :
    s.Taken (2 + (ds.flatMap HuffDef.bytes).length) ((s.unheld.consumed 2).loadHuffs ds) :=
  (s.unheld.taken_consumed 2).trans (State.taken_loadHuffs _ ds)

theorem State.TableAfter.of_huffAt_eq {t u : State} {tc : Fin 2} {th : Fin 4} (h : s.TableAfter ds t tc th)
    (heq : u.huffAt tc th = t.huffAt tc th) : s.TableAfter ds u tc th := by
  unfold State.TableAfter at h ⊢
  rwa [heq]

/-- The bytes of a definition, from its head byte. -/
theorem HuffDef.bytes_of_head {q : Byte} (htc : q.toNat / 16 ≤ 1) (hth : q.toNat % 16 ≤ 3) (counts : Vector Byte 16)
    (values : List Byte) :
    HuffDef.bytes ⟨Fin.ofNat 2 (q.toNat / 16), Fin.ofNat 4 (q.toNat % 16), counts, values⟩ = q :: (counts.toList ++ values) := by
  have hclass : (Fin.ofNat 2 (q.toNat / 16)).val = q.toNat / 16 := Nat.mod_eq_of_lt (by omega)
  have hid : (Fin.ofNat 4 (q.toNat % 16)).val = q.toNat % 16 := Nat.mod_eq_of_lt (by omega)
  have hq : BitVec.ofNat 8 (16 * (q.toNat / 16) + q.toNat % 16) = q := by
    rw [Nat.div_add_mod, BitVec.ofNat_toNat, BitVec.setWidth_eq]
  rw [HuffDef.bytes, hclass, hid, hq]

/-- A definition that runs past the length is read whole, and the length is the error. -/
theorem segDht_overrun {a b : Byte} {d : HuffDef} (hds : ∀ e ∈ ds ++ [d], e.Valid)
    (hL : 2 + (ds.flatMap HuffDef.bytes).length < (a ++ b : BitVec 16).toNat)
    (hover : (a ++ b : BitVec 16).toNat < 2 + ((ds ++ [d]).flatMap HuffDef.bytes).length)
    (h : s.port.input = a :: b :: (ds.flatMap HuffDef.bytes ++ (d.bytes ++ rest))) :
    segDht s = .error (.raise .badDhtLength) ((s.consumed 2).loadHuffs (ds ++ [d])) := by
  rw [List.flatMap_append, List.length_append, List.flatMap_singleton] at hover
  have hnext := State.loadHuffs_input (s := s.consumed 2) (State.consumed_input (l := [a, b]) h)
  have hd := dhtTable_ok (hds d (by simp)) hnext
  obtain ⟨m, hm, hseg⟩ := segDht_defs (fun e he => hds e (List.mem_append_left _ he)) (by omega) h
  obtain ⟨m, rfl⟩ := Nat.exists_eq_add_of_le' (show 1 ≤ m by omega)
  have hloop := (dhtLoop_succ (n := m) (L := ((a ++ b : BitVec 16).toNat : Int) - 2 - (ds.flatMap HuffDef.bytes).length)
    (by omega) hd).trans (dhtLoop_done (by omega))
  rw [hseg, seq_bind_ok hloop, check_apply, if_pos (bne_iff_ne.2 (by omega)), State.loadHuffs_concat]

/-- FASTAC_BUILD changes nothing where the fast-AC table is that of its table already. -/
theorem exec_fastacBuild_same {u : State} (hunheld : u.unheld = u) (hloaded : (u.huffAt 1 (idx2 u.unit.th)).loaded = true)
    (h : u.fastAc.get (idx2 u.unit.th) = fastAcTable (u.huffAt 1 (idx2 u.unit.th))) : exec .fastacBuild u = .next u := by
  rw [exec_fastacBuild hloaded, hunheld]
  refine congrArg Host.Outcome.next ((congrArg (fun f => u.setFastAc (idx2 u.unit.th) f) h.symm).trans ?_)
  exact u.setFastAc_fastAc_get _

end

/-- Settles O27: the loop takes the definitions one after the other; what stands behind them decides. -/
theorem huffmanTableLoaded : Obligations.HuffmanTableLoaded := by
  refine ⟨fun s ds rest a b hp hds hL h => ?_, fun s ds q counts values rest a b hp hds => ?_⟩
  · obtain ⟨m, -, hseg⟩ := segDht_defs (s := s.unheld) hds (by omega) h
    have hleft : ((a ++ b : BitVec 16).toNat : Int) - 2 - (ds.flatMap HuffDef.bytes).length = 0 := by omega
    rw [hleft, seq_bind_ok (dhtLoop_done (Int.le_refl 0))] at hseg
    have hstate := (s.unheld.consumed 2).loadHuffs_eq ds
    rw [State.consumed_consumed] at hstate
    have htables := State.tableAfter_loadHuffs (s := s.unheld.consumed 2) hds
    refine ⟨_, runOp_segmentMarker_ok hp hseg, ?_, htables, fun th => ?_⟩
    · rw [hstate]
      rfl
    · have hfast := (s.unheld.consumed 2).fastAc_loadHuffs ds th
      have hidx : idx2 (BitVec.ofNat 2 th.val) = th := Fin.ext (Nat.mod_eq_of_lt th.isLt)
      refine ⟨fun hnone => hfast.trans (if_pos hnone), fun hsome => exec_fastacBuild_same ?_ ?_ ?_⟩
      · rw [hstate]
        rfl
      · have hloaded : (((s.unheld.consumed 2).loadHuffs ds).huffAt 1 th).loaded = true := by
          have htable := htables 1 th
          obtain ⟨d, hd⟩ := Option.ne_none_iff_exists'.1 hsome
          rw [State.TableAfter, hd] at htable
          exact htable.1
        exact (congrArg (fun i => (((s.unheld.consumed 2).loadHuffs ds).huffAt 1 i).loaded) hidx).trans hloaded
      · have hsame := hfast.trans (if_neg hsome)
        rw [← hidx] at hsame
        exact hsame
  · intro L head taken tc th fails
    refine ⟨fun h hL => ?_, fun h hL hbad => ?_, fun h hL htc hth hsum => ?_, fun h hL htc hth hsum hlen => ?_⟩
    · have hseg : segDht s.unheld = .error (.raise .badDhtLength) (s.unheld.consumed 2) := by
        rw [segDht, seq_bind_ok (readU16_consumed (s := s.unheld) h), seq_bind_ok (dhtLoop_done (by omega)), check_apply,
          if_pos (bne_iff_ne.2 (by omega))]
      exact ⟨_, runOp_segmentMarker_raise hp hseg, rfl, rfl, rfl, rfl, rfl, rfl⟩
    · obtain ⟨hnext, hraise⟩ := segDht_raise (s := s.unheld) hds hL h
      obtain ⟨hpos, hin⟩ := (s.taken_segDht ds).trans (State.taken_consumed _ 1)
      exact ⟨_, runOp_segmentMarker_raise hp (hraise _ _ (dhtTable_badHead hnext hbad)), rfl, rfl, rfl, hpos, hin,
        State.tableAfter_loadHuffs (s := s.unheld.consumed 2) hds⟩
    · obtain ⟨hnext, hraise⟩ := segDht_raise (s := s.unheld) hds hL h
      obtain ⟨hpos, hin⟩ := (s.taken_segDht ds).trans (State.taken_consumed _ 17)
      exact ⟨_, runOp_segmentMarker_raise hp (hraise _ _ (dhtTable_counts hnext htc hth hsum)), rfl, rfl, rfl, hpos, hin,
        State.tableAfter_loadHuffs (s := s.unheld.consumed 2) hds⟩
    · have hbytes := HuffDef.bytes_of_head htc hth counts values
      have hrest : s.port.input = a :: b :: (ds.flatMap HuffDef.bytes ++ (HuffDef.bytes ⟨tc, th, counts, values⟩ ++ rest)) := by
        rw [h, hbytes, List.cons_append, List.append_assoc]
      obtain ⟨hnext, hraise⟩ := segDht_raise (s := s.unheld) hds hL hrest
      refine ⟨fun hinvalid => ?_, fun hvalid hover => ?_⟩
      · obtain ⟨T, hloaded, herror⟩ := dhtTable_refused hsum hlen hinvalid hnext
        obtain ⟨hpos, hin⟩ := (s.taken_segDht ds).trans (State.taken_consumed _ (17 + values.length))
        rw [← Nat.add_assoc] at hpos hin
        refine ⟨_, runOp_segmentMarker_raise hp (hraise _ _ herror), rfl, rfl, rfl, hpos, hin, ?_, fun tc' th' hne => ?_⟩
        · exact (congrArg HuffTable.loaded (State.huffAt_setHuff ..)).trans hloaded
        · have hne' : ¬(tc = tc' ∧ th = th') := fun h => hne ⟨h.1.symm, h.2.symm⟩
          have hother : ((((s.unheld.consumed 2).loadHuffs ds).readDef ⟨tc, th, counts, values⟩).setHuff tc th T).huffAt tc' th' =
              ((s.unheld.consumed 2).loadHuffs ds).huffAt tc' th' :=
            (State.huffAt_setHuff_ne _ hne' T).trans (State.huffAt_setHuff_ne _ hne' _)
          exact (State.tableAfter_loadHuffs (s := s.unheld.consumed 2) hds tc' th').of_huffAt_eq hother
      · have hd : ∀ d ∈ ds ++ [(⟨tc, th, counts, values⟩ : HuffDef)], d.Valid := fun e he => by
          rcases List.mem_append.1 he with he | he
          · exact hds e he
          · rw [List.mem_singleton.1 he]
            exact ⟨hvalid, hlen⟩
        have hsize : (HuffDef.bytes ⟨tc, th, counts, values⟩).length = 17 + values.length := HuffDef.length_bytes _
        have hcount : 2 + ((ds ++ [(⟨tc, th, counts, values⟩ : HuffDef)]).flatMap HuffDef.bytes).length =
            taken + 17 + values.length := by
          simp only [List.flatMap_append, List.length_append, List.flatMap_singleton, hsize, taken, head, Nat.add_assoc]
        have hseg := segDht_overrun (s := s.unheld) hd hL (hcount.symm ▸ hover) hrest
        obtain ⟨hpos, hin⟩ := s.taken_segDht (ds ++ [⟨tc, th, counts, values⟩])
        rw [hcount] at hpos hin
        exact ⟨_, runOp_segmentMarker_raise hp hseg, rfl, rfl, rfl, hpos, hin,
          State.tableAfter_loadHuffs (s := s.unheld.consumed 2) hd⟩

/-! ### Writing registers -/

section
variable {α : Type}

theorem updFrame_bind (f : Frame → Frame) (k : Unit → Seq α) (s : State) : (updFrame f >>= k) s = k () (s.setFrame (f s.frame)) := rfl

theorem updComp_bind (i : Fin 4) (f : Comp → Comp) (k : Unit → Seq α) (s : State) :
    (updComp i f >>= k) s = k () (s.setComp i (f (s.comp.get i))) := rfl

theorem updComp_apply (i : Fin 4) (f : Comp → Comp) (s : State) : updComp i f s = .ok () (s.setComp i (f (s.comp.get i))) := rfl

theorem updScan_bind (f : Scan → Scan) (k : Unit → Seq α) (s : State) : (updScan f >>= k) s = k () (s.setScan (f s.scan)) := rfl

end

/-! ### The frame header's fields (R231) -/

/-- The frame registers with the size and the number of components read (R231). -/
def Frame.withFields (f : Frame) (y x : BitVec 16) (n : Byte) : Frame := { f with imgY := y, imgX := x, imgN := n.truncate 3 }

/-- The fields in stream order: the first check that fails is the error, with the bytes up to its field taken. -/
theorem sofFields_apply {s : State} {l1 l0 p y1 y0 x1 x0 n : Byte} {rest : List Byte}
    (h : s.port.input = l1 :: l0 :: p :: y1 :: y0 :: x1 :: x0 :: n :: rest) :
    sofFields s =
      if (l1 ++ l0 : BitVec 16).toNat < 11 then .error (.raise .badSofLength) (s.consumed 2)
      else if p ≠ 8 then .error (.raise .badPrecision) (s.consumed 3)
      else if (y1 ++ y0 : BitVec 16) = 0 then
        .error (.raise .zeroHeight) ((s.consumed 5).setFrame { s.frame with imgY := y1 ++ y0 })
      else if (x1 ++ x0 : BitVec 16) = 0 then
        .error (.raise .zeroWidth) ((s.consumed 7).setFrame { s.frame with imgY := y1 ++ y0, imgX := x1 ++ x0 })
      else if ¬(n = 1 ∨ n = 3 ∨ n = 4) then
        .error (.raise .badComponentCount) ((s.consumed 8).setFrame { s.frame with imgY := y1 ++ y0, imgX := x1 ++ x0 })
      else if (l1 ++ l0 : BitVec 16).toNat ≠ 8 + 3 * n.toNat then
        .error (.raise .badSofLength) ((s.consumed 8).setFrame (s.frame.withFields (y1 ++ y0) (x1 ++ x0) n))
      else .ok () ((s.consumed 8).setFrame (s.frame.withFields (y1 ++ y0) (x1 ++ x0) n)) := by
  have hp : (s.consumed 2).port.input = p :: y1 :: y0 :: x1 :: x0 :: n :: rest := State.consumed_input (l := [l1, l0]) h
  have hy : (s.consumed 3).port.input = y1 :: y0 :: x1 :: x0 :: n :: rest := State.consumed_input (l := [l1, l0, p]) h
  have hx : ((s.consumed 5).setFrame { s.frame with imgY := y1 ++ y0 }).port.input = x1 :: x0 :: n :: rest :=
    State.consumed_input (l := [l1, l0, p, y1, y0]) h
  have hn : ((s.consumed 7).setFrame { s.frame with imgY := y1 ++ y0, imgX := x1 ++ x0 }).port.input = n :: rest :=
    State.consumed_input (l := [l1, l0, p, y1, y0, x1, x0]) h
  have htwo (f : Frame) : ((s.consumed 5).setFrame f).consumed 2 = (s.consumed 7).setFrame f :=
    congrArg (State.setFrame f) (s.consumed_consumed 5 2)
  have hone (f : Frame) : ((s.consumed 7).setFrame f).consumed 1 = (s.consumed 8).setFrame f :=
    congrArg (State.setFrame f) (s.consumed_consumed 7 1)
  rw [sofFields, seq_bind_ok (readU16_consumed h), check_bind]
  refine if_congr (by simp) rfl ?_
  rw [seq_bind_ok (readU8_consumed hp), check_bind, State.consumed_consumed]
  refine if_congr (by simp) rfl ?_
  rw [seq_bind_ok (readU16_consumed hy), updFrame_bind, check_bind, State.consumed_consumed]
  refine if_congr (by simp) rfl ?_
  refine (seq_bind_ok (readU16_consumed hx) _).trans ?_
  rw [updFrame_bind, check_bind, htwo]
  refine if_congr (by simp) rfl ?_
  refine (seq_bind_ok (readU8_consumed hn) _).trans ?_
  rw [check_bind, hone]
  refine if_congr (by simp [and_assoc]) rfl ?_
  rw [updFrame_bind, check_apply]
  exact if_congr (by simp) rfl rfl

/-! ### The component specifications (R232) -/

/-- A component record with a specification read (R232). -/
def Comp.withSpec (r : Comp) (c : CompSpec) : Comp :=
  { r with id := c.id, h := BitVec.ofNat 3 c.h, v := BitVec.ofNat 3 c.v, tq := c.tq.truncate 2 }

/-- The colour flags after a component's id (R232). -/
def State.flagsAfter (s : State) (i : Fin 4) (c : CompSpec) : Flags :=
  if s.frame.imgN == 3 && c.id == rgbLetter i then { s.flags with rgbIds := s.flags.rgbIds + 1 } else s.flags

/-- The state after a component specification (R232). -/
def State.withSpec (s : State) (i : Fin 4) (c : CompSpec) : State :=
  ((s.consumed 3).setComp i ((s.comp.get i).withSpec c)).setFlags (s.flagsAfter i c)

theorem State.setComp_setComp (s : State) (i : Fin 4) (r r' : Comp) : (s.setComp i r).setComp i r' = s.setComp i r' := by
  simp [State.setComp]

theorem State.setComp_comp_same (s : State) (i : Fin 4) (r : Comp) : (s.setComp i r).comp.get i = r :=
  (comp_set_get s i i r).trans (if_pos rfl)

section
variable {s : State} {i : Fin 4} {c : CompSpec} {rest : List Byte}

/-- A specification with the checks of its fields in stream order; the bytes up to the field have been taken. -/
theorem sofComponent_apply (h : s.port.input = c.id :: c.hv :: c.tq :: rest) :
    sofComponent i s =
      if c.h = 0 ∨ 4 < c.h then
        .error (.raise .badH) (((s.consumed 2).setComp i { s.comp.get i with id := c.id, h := BitVec.ofNat 3 c.h }).setFlags
          (s.flagsAfter i c))
      else if c.v = 0 ∨ 4 < c.v then
        .error (.raise .badV) (((s.consumed 2).setComp i
          { s.comp.get i with id := c.id, h := BitVec.ofNat 3 c.h, v := BitVec.ofNat 3 c.v }).setFlags (s.flagsAfter i c))
      else if 3 < c.tq.toNat then
        .error (.raise .badTq) (((s.consumed 3).setComp i
          { s.comp.get i with id := c.id, h := BitVec.ofNat 3 c.h, v := BitVec.ofNat 3 c.v }).setFlags (s.flagsAfter i c))
      else .ok () (s.withSpec i c) := by
  have hq : (((s.consumed 1).setComp i { s.comp.get i with id := c.id }).setFlags (s.flagsAfter i c)).port.input =
      c.hv :: c.tq :: rest := State.consumed_input (l := [c.id]) h
  have ht : (((s.consumed 2).setComp i
      { s.comp.get i with id := c.id, h := BitVec.ofNat 3 c.h, v := BitVec.ofNat 3 c.v }).setFlags (s.flagsAfter i c)).port.input =
      c.tq :: rest := State.consumed_input (l := [c.id, c.hv]) h
  have hflags (k : Unit → Seq Unit) : (onlyIf (s.frame.imgN == 3 && c.id == rgbLetter i)
      (upd fun s => s.setFlags { s.flags with rgbIds := s.flags.rgbIds + 1 }) >>= k)
        ((s.consumed 1).setComp i { s.comp.get i with id := c.id }) =
      k () (((s.consumed 1).setComp i { s.comp.get i with id := c.id }).setFlags (s.flagsAfter i c)) := by
    unfold State.flagsAfter
    cases s.frame.imgN == 3 && c.id == rgbLetter i <;> rfl
  have hstep (m n : Nat) (r : Comp) (f : Flags) : (((s.consumed m).setComp i r).setFlags f).consumed n =
      ((s.consumed (m + n)).setComp i r).setFlags f :=
    congrArg (fun t : State => (t.setComp i r).setFlags f) (s.consumed_consumed m n)
  have hwrite (m : Nat) (r r' : Comp) (f : Flags) : (((s.consumed m).setComp i r).setFlags f).setComp i r' =
      ((s.consumed m).setComp i r').setFlags f :=
    congrArg (State.setFlags f) ((s.consumed m).setComp_setComp i r r')
  have hread (m : Nat) (r : Comp) (f : Flags) : (((s.consumed m).setComp i r).setFlags f).comp.get i = r :=
    (s.consumed m).setComp_comp_same i r
  rw [sofComponent, seq_bind_ok (readU8_consumed h), updComp_bind, look_bind]
  refine (hflags _).trans ?_
  refine (seq_bind_ok (readU8_consumed hq) _).trans ?_
  rw [hstep, updComp_bind, check_bind, hread, hwrite]
  refine if_congr (by simp [CompSpec.h]) rfl ?_
  rw [updComp_bind, check_bind, hread, hwrite]
  refine if_congr (by simp [CompSpec.v]) rfl ?_
  refine (seq_bind_ok (readU8_consumed ht) _).trans ?_
  rw [hstep, check_bind]
  refine if_congr (by simp) rfl ?_
  rw [updComp_apply, hread, hwrite]
  rfl

theorem sofComponent_legal (hc : c.Legal) (h : s.port.input = c.id :: c.hv :: c.tq :: rest) :
    sofComponent i s = .ok () (s.withSpec i c) := by
  obtain ⟨hh, hh4, hv, hv4, ht⟩ := hc
  rw [sofComponent_apply h, if_neg (by omega), if_neg (by omega), if_neg (by omega)]

end

/-- The state after some component specifications, from position `j` on. -/
def State.withSpecs (s : State) (j : Nat) : List CompSpec → State
  | [] => s
  | c :: cs => (s.withSpec (Fin.ofNat 4 j) c).withSpecs (j + 1) cs

section
variable {s : State} {cs : List CompSpec} {j : Nat}

/-- Specifications take their bytes and write component records and `rgb_ids`, and nothing else. -/
theorem State.withSpecs_eq (s : State) (j : Nat) (cs : List CompSpec) :
    s.withSpecs j cs = { s.consumed (3 * cs.length) with
      comp := (s.withSpecs j cs).comp, flags := { s.flags with rgbIds := (s.withSpecs j cs).flags.rgbIds } } := by
  induction cs generalizing s j with
  | nil => rw [List.length_nil, Nat.mul_zero, State.consumed_zero]; rfl
  | cons c cs ih =>
    have hflags : { s.flagsAfter (Fin.ofNat 4 j) c with rgbIds := ((s.withSpec (Fin.ofNat 4 j) c).withSpecs (j + 1) cs).flags.rgbIds } =
        { s.flags with rgbIds := ((s.withSpec (Fin.ofNat 4 j) c).withSpecs (j + 1) cs).flags.rgbIds } := by
      unfold State.flagsAfter
      split <;> rfl
    have hconsumed : s.consumed (3 * (cs.length + 1)) = (s.consumed 3).consumed (3 * cs.length) := by
      rw [State.consumed_consumed, Nat.mul_succ, Nat.add_comm]
    rw [State.withSpecs, ih, List.length_cons, hconsumed, ← hflags]
    rfl

theorem State.withSpecs_frame (s : State) (j : Nat) (cs : List CompSpec) : (s.withSpecs j cs).frame = s.frame := by
  rw [State.withSpecs_eq]
  rfl

theorem State.taken_withSpecs (s : State) (j : Nat) (cs : List CompSpec) : s.Taken (3 * cs.length) (s.withSpecs j cs) := by
  rw [State.withSpecs_eq]
  exact ⟨rfl, rfl⟩

/-- A component record outside the positions of the specifications. -/
theorem State.withSpecs_get_outside {k : Fin 4} (hfit : j + cs.length ≤ 4) (hk : k.val < j ∨ j + cs.length ≤ k.val) :
    (s.withSpecs j cs).comp.get k = s.comp.get k := by
  induction cs generalizing s j with
  | nil => rfl
  | cons c cs ih =>
    rw [List.length_cons] at hfit hk
    have hj : (Fin.ofNat 4 j).val = j := Nat.mod_eq_of_lt (by omega)
    have hne : Fin.ofNat 4 j ≠ k := fun he => by have := congrArg Fin.val he; omega
    rw [State.withSpecs, ih (by omega) (by omega)]
    exact (comp_set_get (s.consumed 3) ..).trans (if_neg hne)

/-- The component record of a specification. -/
theorem State.withSpecs_get {k : Fin 4} {i : Nat} {c : CompSpec} (hfit : j + cs.length ≤ 4) (hc : cs[i]? = some c)
    (hk : k.val = j + i) : (s.withSpecs j cs).comp.get k = (s.comp.get k).withSpec c := by
  induction cs generalizing s j i with
  | nil => cases hc
  | cons d cs ih =>
    rw [List.length_cons] at hfit
    cases i with
    | zero =>
      cases hc
      have hj : Fin.ofNat 4 j = k := Fin.ext ((Nat.mod_eq_of_lt (by omega)).trans hk.symm)
      rw [State.withSpecs, State.withSpecs_get_outside (by omega) (.inl (by omega)), hj]
      exact (comp_set_get (s.consumed 3) ..).trans (if_pos rfl)
    | succ i =>
      have hj : (Fin.ofNat 4 j).val = j := Nat.mod_eq_of_lt (by omega)
      have hne : Fin.ofNat 4 j ≠ k := fun he => by have := congrArg Fin.val he; omega
      have hkeep : (s.withSpec (Fin.ofNat 4 j) d).comp.get k = s.comp.get k :=
        (comp_set_get (s.consumed 3) ..).trans (if_neg hne)
      rw [State.withSpecs, ih (by omega) hc (by omega), hkeep]

theorem State.withSpec_rgbIds_three (i : Fin 4) (c : CompSpec) (h : s.frame.imgN = 3) :
    (s.withSpec i c).flags.rgbIds = s.flags.rgbIds + BitVec.ofNat 2 (c.id == rgbLetter i).toNat := by
  show (s.flagsAfter i c).rgbIds = _
  rw [State.flagsAfter, h]
  cases c.id == rgbLetter i
  · exact (BitVec.add_zero _).symm
  · rfl

theorem State.withSpecs_rgbIds_other (h : s.frame.imgN ≠ 3) : (s.withSpecs j cs).flags.rgbIds = s.flags.rgbIds := by
  induction cs generalizing s j with
  | nil => rfl
  | cons c cs ih =>
    have hflags : s.flagsAfter (Fin.ofNat 4 j) c = s.flags := by
      rw [State.flagsAfter, beq_false_of_ne h]
      rfl
    rw [State.withSpecs, ih (s := s.withSpec (Fin.ofNat 4 j) c) h]
    exact congrArg Flags.rgbIds hflags

/-- `rgb_ids` counts the letters (R232). -/
theorem State.withSpecs_rgbIds (hlen : cs.length = 1 ∨ cs.length = 3 ∨ cs.length = 4)
    (hn : s.frame.imgN = BitVec.ofNat 3 cs.length) (h0 : s.flags.rgbIds = 0) :
    (s.withSpecs 0 cs).flags.rgbIds = BitVec.ofNat 2 (rgbCount cs) := by
  match cs, hlen with
  | [a], _ =>
    have hone : s.frame.imgN = 1 := hn
    rw [State.withSpecs_rgbIds_other (by rw [hone]; decide), h0]
    rfl
  | [a, b, c, d], _ =>
    have hfour : s.frame.imgN = 4 := hn
    rw [State.withSpecs_rgbIds_other (by rw [hfour]; decide), h0]
    rfl
  | [a, b, c], _ =>
    have hred := State.withSpec_rgbIds_three (s := s) 0 a hn
    have hgreen := State.withSpec_rgbIds_three (s := s.withSpec 0 a) 1 b hn
    have hblue := State.withSpec_rgbIds_three (s := (s.withSpec 0 a).withSpec 1 b) 2 c hn
    refine hblue.trans ?_
    rw [hgreen, hred, h0, rgbCount, BitVec.ofNat_add, BitVec.ofNat_add, zero_add]
    rfl

/-- The specifications that are right, one after the other; the positions that are left go on behind them. -/
theorem forEach_sofComponent {rest : List Byte} (r : Nat) (hcs : ∀ c ∈ cs, c.Legal) (h : s.port.input = specBytes cs ++ rest) :
    forEach ((List.range' j (cs.length + r)).map (Fin.ofNat 4)) sofComponent s =
      forEach ((List.range' (j + cs.length) r).map (Fin.ofNat 4)) sofComponent (s.withSpecs j cs) := by
  induction cs generalizing s j with
  | nil => rw [List.length_nil, Nat.zero_add, Nat.add_zero]; rfl
  | cons c cs ih =>
    have hc : s.port.input = c.id :: c.hv :: c.tq :: (specBytes cs ++ rest) := h
    have hnext : (s.withSpec (Fin.ofNat 4 j) c).port.input = specBytes cs ++ rest :=
      State.consumed_input (l := [c.id, c.hv, c.tq]) hc
    rw [List.length_cons, Nat.succ_add, List.range'_succ, List.map_cons, forEach_cons,
      seq_bind_ok (sofComponent_legal (hcs c (List.mem_cons_self ..)) hc), ih (fun e he => hcs e (List.mem_cons_of_mem _ he)) hnext,
      Nat.add_assoc, Nat.add_comm 1]
    rfl

end

/-! ### Sampling factors (R234) -/

theorem maxH_eq_foldr (cs : List CompSpec) : maxH cs = (cs.map CompSpec.h).foldr max ⊥ := List.foldl_eq_foldr

theorem maxV_eq_foldr (cs : List CompSpec) : maxV cs = (cs.map CompSpec.v).foldr max ⊥ := List.foldl_eq_foldr

section
variable {cs : List CompSpec} {c : CompSpec}

theorem h_le_maxH (hc : c ∈ cs) : c.h ≤ maxH cs := by
  rw [maxH_eq_foldr]
  exact List.le_max_of_le (List.mem_map_of_mem hc) (Nat.le_refl _)

theorem v_le_maxV (hc : c ∈ cs) : c.v ≤ maxV cs := by
  rw [maxV_eq_foldr]
  exact List.le_max_of_le (List.mem_map_of_mem hc) (Nat.le_refl _)

theorem maxH_le (hcs : ∀ c ∈ cs, c.Legal) : maxH cs ≤ 4 := by
  rw [maxH_eq_foldr]
  refine List.max_le_of_forall_le _ _ fun x hx => ?_
  obtain ⟨c, hc, rfl⟩ := List.mem_map.1 hx
  exact (hcs c hc).2.1

theorem maxV_le (hcs : ∀ c ∈ cs, c.Legal) : maxV cs ≤ 4 := by
  rw [maxV_eq_foldr]
  refine List.max_le_of_forall_le _ _ fun x hx => ?_
  obtain ⟨c, hc, rfl⟩ := List.mem_map.1 hx
  exact (hcs c hc).2.2.2.1

end

/-! ### Sizes (R235, R236) -/

/-- A padded length is less than the length and one MCU more. -/
theorem ceilDiv_mul_lt {x m : Nat} (hm : 1 ≤ m) : ceilDiv x m * m < x + m := by
  have h := Nat.div_mul_le_self (x + m - 1) m
  unfold ceilDiv
  omega

/-- The number of MCUs fits its register. -/
theorem ceilDiv_lt (x : BitVec 16) {m : Nat} (hm : 1 ≤ m) (h4 : m ≤ 4) : ceilDiv x.toNat (8 * m) < 2 ^ 17 := by
  have h := ceilDiv_mul_lt (x := x.toNat) (m := 8 * m) (by omega)
  have hle : ceilDiv x.toNat (8 * m) ≤ ceilDiv x.toNat (8 * m) * (8 * m) := Nat.le_mul_of_pos_right _ (by omega)
  have hx := x.isLt
  omega

/-- A padded length fits its register. -/
theorem padded_lt (x : BitVec 16) {f m : Nat} (hm : 1 ≤ m) (h4 : m ≤ 4) (hf : f ≤ m) : ceilDiv x.toNat (8 * m) * f * 8 < 2 ^ 20 := by
  have h := ceilDiv_mul_lt (x := x.toNat) (m := 8 * m) (by omega)
  have hle : ceilDiv x.toNat (8 * m) * f * 8 ≤ ceilDiv x.toNat (8 * m) * (8 * m) := by
    rw [Nat.mul_assoc, Nat.mul_comm f 8]
    exact Nat.mul_le_mul_left _ (Nat.mul_le_mul_left 8 hf)
  have hx := x.isLt
  omega

/-! ### The live components -/

/-- What is read of the live components is what the specifications say of them. -/
theorem State.live_map {α : Type} {u : State} {cs : List CompSpec} {f : Fin 4 → α} {g : CompSpec → α}
    (hn : u.frame.imgN.toNat = cs.length) (h4 : cs.length ≤ 4) (h : ∀ (k : Fin 4) (c : CompSpec), cs[k.val]? = some c → f k = g c) :
    u.live.map f = cs.map g := by
  refine List.ext_getElem (by simp [State.live, hn]) fun i hi hi' => ?_
  rw [List.length_map] at hi'
  have hval : (Fin.ofNat 4 i).val = i := Nat.mod_eq_of_lt (by omega)
  simpa [State.live] using h (Fin.ofNat 4 i) cs[i] (by rw [hval]; exact List.getElem?_eq_getElem hi')

theorem State.mem_live {u : State} {k : Fin 4} (h4 : u.frame.imgN.toNat ≤ 4) : k ∈ u.live ↔ k.val < u.frame.imgN.toNat := by
  rw [State.live, List.mem_map]
  constructor
  · rintro ⟨i, hi, rfl⟩
    have hi := List.mem_range.1 hi
    rwa [show (Fin.ofNat 4 i).val = i from Nat.mod_eq_of_lt (by omega)]
  · intro hk
    exact ⟨k.val, List.mem_range.2 hk, Fin.ext (Nat.mod_eq_of_lt k.isLt)⟩

/-- The component records hold specifications that are right (R232). -/
structure State.Specified (u : State) (cs : List CompSpec) : Prop where
  count : u.frame.imgN.toNat = cs.length
  length_pos : 1 ≤ cs.length
  length_le : cs.length ≤ 4
  legal : ∀ c ∈ cs, c.Legal
  h : ∀ (k : Fin 4) (c : CompSpec), cs[k.val]? = some c → (u.comp.get k).h.toNat = c.h
  v : ∀ (k : Fin 4) (c : CompSpec), cs[k.val]? = some c → (u.comp.get k).v.toNat = c.v

namespace State.Specified

variable {u : State} {cs : List CompSpec} (hu : u.Specified cs)
include hu

theorem maxFactor_h : u.maxFactor Comp.h = maxH cs := by
  rw [State.maxFactor, State.live_map (g := CompSpec.h) hu.count hu.length_le hu.h]
  rfl

theorem maxFactor_v : u.maxFactor Comp.v = maxV cs := by
  rw [State.maxFactor, State.live_map (g := CompSpec.v) hu.count hu.length_le hu.v]
  rfl

theorem one_le_maxH : 1 ≤ maxH cs := by
  obtain ⟨c, hc⟩ := List.exists_mem_of_length_pos hu.length_pos
  exact Nat.le_trans (hu.legal c hc).1 (h_le_maxH hc)

theorem one_le_maxV : 1 ≤ maxV cs := by
  obtain ⟨c, hc⟩ := List.exists_mem_of_length_pos hu.length_pos
  exact Nat.le_trans (hu.legal c hc).2.2.1 (v_le_maxV hc)

theorem setFrame {f : Frame} (hf : f.imgN = u.frame.imgN) : (u.setFrame f).Specified cs :=
  ⟨(congrArg BitVec.toNat hf).trans hu.count, hu.length_pos, hu.length_le, hu.legal, hu.h, hu.v⟩

end State.Specified

/-! ### The checks on the whole frame (R233, R234) -/

/-- The frame registers with the maximum sampling factors (R234). -/
def Frame.withMaxima (f : Frame) (cs : List CompSpec) : Frame :=
  { f with hMax := BitVec.ofNat 3 (maxH cs), vMax := BitVec.ofNat 3 (maxV cs) }

theorem sofSizeCheck_apply (s : State) :
    sofSizeCheck s = if s.cfg.maxAllocBytes < s.frame.imgX.toNat * s.frame.imgY.toNat * s.frame.imgN.toNat then
      .error (.raise .sizeOverflow) s else .ok () s := by
  rw [sofSizeCheck, look_bind, check_apply]
  exact if_congr decide_eq_true_iff rfl rfl

namespace State.Specified

variable {u : State} {cs : List CompSpec} (hu : u.Specified cs)
include hu

theorem hMax_toNat : (BitVec.ofNat 3 (maxH cs)).toNat = maxH cs := by
  have h4 := maxH_le hu.legal
  rw [BitVec.toNat_ofNat, Nat.mod_eq_of_lt (by omega)]

theorem vMax_toNat : (BitVec.ofNat 3 (maxV cs)).toNat = maxV cs := by
  have h4 := maxV_le hu.legal
  rw [BitVec.toNat_ofNat, Nat.mod_eq_of_lt (by omega)]

theorem nonInteger_iff : (u.setFrame (u.frame.withMaxima cs)).nonInteger = true ↔ ¬IntegerRatios cs := by
  have hmap := State.live_map (u := u.setFrame (u.frame.withMaxima cs)) hu.count hu.length_le
    (f := fun i => decide ((BitVec.ofNat 3 (maxH cs)).toNat % (u.comp.get i).h.toNat ≠ 0) ||
      decide ((BitVec.ofNat 3 (maxV cs)).toNat % (u.comp.get i).v.toNat ≠ 0))
    (g := fun c => decide (maxH cs % c.h ≠ 0) || decide (maxV cs % c.v ≠ 0))
    fun k c hc => by rw [hu.h k c hc, hu.v k c hc, hu.hMax_toNat, hu.vMax_toNat]
  have hany : (u.setFrame (u.frame.withMaxima cs)).nonInteger =
      cs.any fun c => decide (maxH cs % c.h ≠ 0) || decide (maxV cs % c.v ≠ 0) := by
    have h := congrArg (fun l => l.any id) hmap
    simp only [List.any_map] at h
    exact h
  rw [hany]
  simp [IntegerRatios, imp_iff_not_or, not_or]

theorem sofSampling_apply :
    sofSampling u = if IntegerRatios cs then .ok () (u.setFrame (u.frame.withMaxima cs))
      else .error (.raise .nonIntegerSampling) (u.setFrame (u.frame.withMaxima cs)) := by
  rw [sofSampling, look_bind, look_bind, hu.maxFactor_h, hu.maxFactor_v, updFrame_bind, look_bind, check_apply]
  by_cases h : IntegerRatios cs
  · rw [if_pos h]
    exact if_neg fun hbad => hu.nonInteger_iff.1 hbad h
  · rw [if_neg h]
    exact if_pos (hu.nonInteger_iff.2 h)

end State.Specified

/-! ### Geometry (R235, R236) -/

/-- The component records with the geometry of those in the list (R236). -/
def State.geometryOf (s : State) (l : List (Fin 4)) : Vector Comp 4 :=
  Vector.ofFn fun k => if k ∈ l then (s.comp.get k).geometry s.frame else s.comp.get k

theorem State.geometryOf_get (s : State) (l : List (Fin 4)) (k : Fin 4) :
    (s.geometryOf l).get k = if k ∈ l then (s.comp.get k).geometry s.frame else s.comp.get k := by
  simp [State.geometryOf, Vector.get_eq_getElem]

theorem forEach_geometry (l : List (Fin 4)) (s : State) :
    forEach l (fun i => upd fun s => s.setComp i ((s.comp.get i).geometry s.frame)) s = .ok () { s with comp := s.geometryOf l } := by
  induction l generalizing s with
  | nil =>
    have hsame : s.geometryOf [] = s.comp := Vector.ext fun i hi => by simp [State.geometryOf, Vector.get_eq_getElem]
    rw [hsame]
    rfl
  | cons i l ih =>
    have hstep : (s.setComp i ((s.comp.get i).geometry s.frame)).geometryOf l = s.geometryOf (i :: l) := by
      have hget (k : Fin 4) : ((s.setComp i ((s.comp.get i).geometry s.frame)).geometryOf l).get k = (s.geometryOf (i :: l)).get k := by
        rw [State.geometryOf_get, State.geometryOf_get, State.setComp, comp_set_get]
        by_cases hi : i = k
        · subst hi
          rw [if_pos rfl, if_pos (List.mem_cons_self ..)]
          exact ite_eq_right_iff.2 fun _ => rfl
        · rw [if_neg hi]
          exact if_congr (by simp [Ne.symm hi]) rfl rfl
      exact Vector.ext fun k hk => hget ⟨k, hk⟩
    rw [forEach_cons, upd_bind, ih, hstep]
    rfl

/-- The state after the geometry (R235, R236). -/
def State.withGeometry (s : State) : State :=
  { s with frame := s.frame.geometry, comp := (s.setFrame s.frame.geometry).geometryOf s.live }

theorem sofGeometry_apply (s : State) : sofGeometry s = .ok () s.withGeometry := by
  rw [sofGeometry, updFrame_bind, look_bind, forEach_geometry]
  rfl

/-! ### Allocation (R237, R76) -/

section
variable {s : State} {l : List (Fin 4)}

theorem sofNeeds_ok (total : Nat) (h : ∀ i ∈ l, s.planeNeed i ≤ s.cfg.maxAllocBytes) :
    sofNeeds l total s = .ok (total + (l.map s.planeNeed).sum) s := by
  induction l generalizing total with
  | nil => rfl
  | cons i l ih =>
    have hi := h i (List.mem_cons_self ..)
    rw [sofNeeds, look_bind, look_bind, check_bind, if_neg (by simpa using hi), ih _ fun j hj => h j (List.mem_cons_of_mem _ hj),
      List.map_cons, List.sum_cons, Nat.add_assoc]

theorem sofNeeds_tooBig (total : Nat) (h : ∃ i ∈ l, s.cfg.maxAllocBytes < s.planeNeed i) :
    sofNeeds l total s = .error (.raise .sizeOverflow) s := by
  induction l generalizing total with
  | nil => simp at h
  | cons i l ih =>
    rw [sofNeeds, look_bind, look_bind, check_bind]
    by_cases hi : s.cfg.maxAllocBytes < s.planeNeed i
    · rw [if_pos (decide_eq_true hi)]
    · obtain ⟨j, hj, hbig⟩ := h
      have hne : j ≠ i := fun he => hi (he ▸ hbig)
      rw [if_neg (by simpa using hi), ih _ ⟨j, (List.mem_cons.1 hj).resolve_left hne, hbig⟩]

end

/-! ### The frame with its sizes -/

/-- The frame registers with the maxima and the MCU grid (R234, R235). -/
def Frame.sized (f : Frame) (cs : List CompSpec) : Frame :=
  { f with
    hMax := BitVec.ofNat 3 (maxH cs), vMax := BitVec.ofNat 3 (maxV cs)
    mcuW := BitVec.ofNat 6 (8 * maxH cs), mcuH := BitVec.ofNat 6 (8 * maxV cs)
    mcuX := BitVec.ofNat 17 (ceilDiv f.imgX.toNat (8 * maxH cs)), mcuY := BitVec.ofNat 17 (ceilDiv f.imgY.toNat (8 * maxV cs)) }

/-- A component record with its padded geometry (R236). -/
def Comp.sized (r : Comp) (f : Frame) (cs : List CompSpec) (c : CompSpec) : Comp :=
  { r with
    x := BitVec.ofNat 17 (ceilDiv (f.imgX.toNat * c.h) (maxH cs)), y := BitVec.ofNat 17 (ceilDiv (f.imgY.toNat * c.v) (maxV cs))
    w2 := BitVec.ofNat 20 (planeW cs f.imgX.toNat c), h2 := BitVec.ofNat 20 (planeH cs f.imgY.toNat c)
    coeffW := if f.progressive then BitVec.ofNat 17 (planeW cs f.imgX.toNat c / 8) else 0
    coeffH := if f.progressive then BitVec.ofNat 17 (planeH cs f.imgY.toNat c / 8) else 0 }

/-- The state after the sampling factors and the geometry (R234 to R236). -/
def State.sized (u : State) (cs : List CompSpec) : State := (u.setFrame (u.frame.withMaxima cs)).withGeometry

namespace State.Specified

variable {u : State} {cs : List CompSpec} (hu : u.Specified cs)
include hu

theorem sized_frame : (u.sized cs).frame = u.frame.sized cs := by
  show (u.frame.withMaxima cs).geometry = _
  rw [Frame.geometry, Frame.withMaxima, hu.hMax_toNat, hu.vMax_toNat]
  rfl

theorem mcuX_toNat : (u.frame.sized cs).mcuX.toNat = ceilDiv u.frame.imgX.toNat (8 * maxH cs) := by
  show (BitVec.ofNat 17 _).toNat = _
  rw [BitVec.toNat_ofNat, Nat.mod_eq_of_lt (ceilDiv_lt _ hu.one_le_maxH (maxH_le hu.legal))]

theorem mcuY_toNat : (u.frame.sized cs).mcuY.toNat = ceilDiv u.frame.imgY.toNat (8 * maxV cs) := by
  show (BitVec.ofNat 17 _).toNat = _
  rw [BitVec.toNat_ofNat, Nat.mod_eq_of_lt (ceilDiv_lt _ hu.one_le_maxV (maxV_le hu.legal))]

theorem sized_get {k : Fin 4} {c : CompSpec} (hc : cs[k.val]? = some c) :
    (u.sized cs).comp.get k = (u.comp.get k).sized u.frame cs c := by
  have hk : k ∈ (u.setFrame (u.frame.withMaxima cs)).live := by
    rw [State.mem_live (by rw [State.setFrame]; exact hu.count.trans_le hu.length_le)]
    exact (List.getElem?_eq_some_iff.1 hc).1.trans_eq hu.count.symm
  have hgeometry : (u.sized cs).comp.get k = (u.comp.get k).geometry (u.sized cs).frame :=
    (State.geometryOf_get ..).trans (if_pos hk)
  have hhMax : (u.frame.sized cs).hMax.toNat = maxH cs := hu.hMax_toNat
  have hvMax : (u.frame.sized cs).vMax.toNat = maxV cs := hu.vMax_toNat
  rw [hgeometry, hu.sized_frame, Comp.geometry, hu.mcuX_toNat, hu.mcuY_toNat, hu.h k c hc, hu.v k c hc, hhMax, hvMax]
  rfl

theorem sized_get_outside {k : Fin 4} (hk : cs.length ≤ k.val) : (u.sized cs).comp.get k = u.comp.get k := by
  have hk : k ∉ (u.setFrame (u.frame.withMaxima cs)).live := by
    rw [State.mem_live (by rw [State.setFrame]; exact hu.count.trans_le hu.length_le)]
    exact Nat.not_lt.2 (hu.count.trans_le hk)
  exact (State.geometryOf_get ..).trans (if_neg hk)

theorem planeNeed_sized {k : Fin 4} {c : CompSpec} (hc : cs[k.val]? = some c) :
    (u.sized cs).planeNeed k = planeBytes cs u.frame.imgX.toNat u.frame.imgY.toNat u.frame.progressive c := by
  have hmem : c ∈ cs := List.mem_of_getElem? hc
  have hw : planeW cs u.frame.imgX.toNat c < 2 ^ 20 := padded_lt _ hu.one_le_maxH (maxH_le hu.legal) (h_le_maxH hmem)
  have hh : planeH cs u.frame.imgY.toNat c < 2 ^ 20 := padded_lt _ hu.one_le_maxV (maxV_le hu.legal) (v_le_maxV hmem)
  rw [State.planeNeed, hu.sized_get hc, hu.sized_frame]
  simp only [Comp.sized, Frame.sized, planeBytes, BitVec.toNat_ofNat, Nat.mod_eq_of_lt hw, Nat.mod_eq_of_lt hh]

/-- What the live components need is what their specifications need (R237). -/
theorem live_planeNeed : (u.sized cs).live.map (u.sized cs).planeNeed =
    cs.map (planeBytes cs u.frame.imgX.toNat u.frame.imgY.toNat u.frame.progressive) :=
  State.live_map hu.count hu.length_le fun _ _ hc => hu.planeNeed_sized hc

theorem sofAllocate_tooBig
    (h : ∃ c ∈ cs, u.cfg.maxAllocBytes < planeBytes cs u.frame.imgX.toNat u.frame.imgY.toNat u.frame.progressive c) :
    sofAllocate (u.sized cs) = .error (.raise .sizeOverflow) (u.sized cs) := by
  have hneed : ∃ i ∈ (u.sized cs).live, u.cfg.maxAllocBytes < (u.sized cs).planeNeed i := by
    obtain ⟨c, hc, hbig⟩ := h
    obtain ⟨i, hi, hneed⟩ := List.mem_map.1 (hu.live_planeNeed ▸ List.mem_map_of_mem hc)
    exact ⟨i, hi, hneed ▸ hbig⟩
  rw [sofAllocate, look_bind, seq_bind_error (sofNeeds_tooBig 0 hneed)]

theorem sofAllocate_apply
    (h : ∀ c ∈ cs, planeBytes cs u.frame.imgX.toNat u.frame.imgY.toNat u.frame.progressive c ≤ u.cfg.maxAllocBytes) :
    sofAllocate (u.sized cs) =
      if u.cfg.planeMemBytes < (cs.map (planeBytes cs u.frame.imgX.toNat u.frame.imgY.toNat u.frame.progressive)).sum then
        .error (.raise .allocFailed) (u.sized cs)
      else .ok () (u.sized cs).allocate := by
  have hneed : ∀ i ∈ (u.sized cs).live, (u.sized cs).planeNeed i ≤ u.cfg.maxAllocBytes := fun i hi => by
    obtain ⟨c, hc, hneed⟩ := List.mem_map.1 (hu.live_planeNeed ▸ List.mem_map_of_mem hi)
    exact hneed ▸ h c hc
  rw [sofAllocate, look_bind, seq_bind_ok (sofNeeds_ok 0 hneed), look_bind, check_bind, hu.live_planeNeed, Nat.zero_add]
  exact if_congr decide_eq_true_iff rfl rfl

end State.Specified

/-! ### The frame header as a whole (R230) -/

/-- What the frame header does once its specifications have been read (R233 to R238). -/
def sofRest : Seq Unit := do
  sofSizeCheck
  sofSampling
  sofGeometry
  sofAllocate
  upd State.completeFrame

theorem frameHeader_eq (p : Bool) : frameHeader p = (do
    updFrame (fun f => { f with progressive := p })
    sofFields
    sofComponents
    sofRest : Seq Unit) := rfl

/-- The frame registers before the component specifications (R230, R231). -/
def Frame.headed (f : Frame) (p : Bool) (y x : BitVec 16) (n : Nat) : Frame :=
  { f with progressive := p, imgY := y, imgX := x, imgN := BitVec.ofNat 3 n }

/-- The state before the component specifications (R230 to R232). -/
def State.headed (s : State) (p : Bool) (y x : BitVec 16) (n : Nat) : State :=
  ((s.consumed 8).setFrame (s.frame.headed p y x n)).setFlags { s.flags with rgbIds := 0 }

section
variable {s : State} {p : Bool} {cs : List CompSpec} {n : Nat} {y1 y0 x1 x0 : Byte} {tail : List Byte}

/-- A right head and right specifications: the header goes on with the specifications that are left. -/
theorem frameHeader_specs {r : Nat} (hn : n = 1 ∨ n = 3 ∨ n = 4) (hy : (y1 ++ y0 : BitVec 16) ≠ 0) (hx : (x1 ++ x0 : BitVec 16) ≠ 0)
    (hcs : ∀ c ∈ cs, c.Legal) (hlen : cs.length + r = n)
    (h : s.port.input = 0x00 :: BitVec.ofNat 8 (8 + 3 * n) :: 0x08 :: y1 :: y0 :: x1 :: x0 :: BitVec.ofNat 8 n ::
      (specBytes cs ++ tail)) :
    frameHeader p s = (do
      forEach ((List.range' cs.length r).map (Fin.ofNat 4)) sofComponent
      sofRest : Seq Unit) ((s.headed p (y1 ++ y0) (x1 ++ x0) n).withSpecs 0 cs) := by
  have hL : ((0x00 : Byte) ++ BitVec.ofNat 8 (8 + 3 * n) : BitVec 16).toNat = 8 + 3 * n := by
    rcases hn with rfl | rfl | rfl <;> rfl
  have hn8 : (BitVec.ofNat 8 n).toNat = n := by
    rcases hn with rfl | rfl | rfl <;> rfl
  have hn3 : ((BitVec.ofNat 8 n).truncate 3 : BitVec 3) = BitVec.ofNat 3 n := by
    rcases hn with rfl | rfl | rfl <;> rfl
  have hlive : (BitVec.ofNat 3 n).toNat = n := by
    rcases hn with rfl | rfl | rfl <;> rfl
  have hcount : BitVec.ofNat 8 n = 1 ∨ BitVec.ofNat 8 n = 3 ∨ BitVec.ofNat 8 n = 4 := by
    rcases hn with rfl | rfl | rfl <;> decide
  have hfields : sofFields (s.setFrame { s.frame with progressive := p }) =
      .ok () ((s.consumed 8).setFrame (s.frame.headed p (y1 ++ y0) (x1 ++ x0) n)) := by
    rw [sofFields_apply (s := s.setFrame { s.frame with progressive := p }) h, if_neg (by omega), if_neg (by decide), if_neg hy,
      if_neg hx, if_neg (not_not.2 hcount), if_neg (by omega), Frame.withFields, hn3]
    rfl
  have hcomponents : sofComponents ((s.consumed 8).setFrame (s.frame.headed p (y1 ++ y0) (x1 ++ x0) n)) =
      forEach ((List.range' cs.length r).map (Fin.ofNat 4)) sofComponent
        ((s.headed p (y1 ++ y0) (x1 ++ x0) n).withSpecs 0 cs) := by
    have hpositions : (s.headed p (y1 ++ y0) (x1 ++ x0) n).live = (List.range' 0 (cs.length + r)).map (Fin.ofNat 4) := by
      rw [State.live, List.range_eq_range', hlen]
      exact congrArg (fun m => (List.range' 0 m).map (Fin.ofNat 4)) hlive
    have hspecs := forEach_sofComponent (j := 0) (s := s.headed p (y1 ++ y0) (x1 ++ x0) n) r hcs (rest := tail)
      (State.consumed_input (l := [0x00, BitVec.ofNat 8 (8 + 3 * n), 0x08, y1, y0, x1, x0, BitVec.ofNat 8 n]) h)
    rw [Nat.zero_add, ← hpositions] at hspecs
    exact hspecs
  rw [frameHeader_eq, updFrame_bind, seq_bind_ok hfields, seq_bind, seq_bind, hcomponents]

/-- Whatever the next specification raises is the header's error. -/
theorem frameHeader_nextSpec {e : ErrCode} {u : State} (hn : n = 1 ∨ n = 3 ∨ n = 4) (hy : (y1 ++ y0 : BitVec 16) ≠ 0)
    (hx : (x1 ++ x0 : BitVec 16) ≠ 0) (hcs : ∀ c ∈ cs, c.Legal) (hlt : cs.length < n)
    (h : s.port.input = 0x00 :: BitVec.ofNat 8 (8 + 3 * n) :: 0x08 :: y1 :: y0 :: x1 :: x0 :: BitVec.ofNat 8 n ::
      (specBytes cs ++ tail))
    (he : sofComponent (Fin.ofNat 4 cs.length) ((s.headed p (y1 ++ y0) (x1 ++ x0) n).withSpecs 0 cs) = .error (.raise e) u) :
    frameHeader p s = .error (.raise e) u := by
  obtain ⟨r, hr⟩ := Nat.exists_eq_add_of_lt hlt
  rw [frameHeader_specs (r := r + 1) hn hy hx hcs hr.symm h, List.range'_succ, List.map_cons, forEach_cons]
  exact seq_bind_error (seq_bind_error he _) _

theorem State.taken_headed (s : State) (p : Bool) (y x : BitVec 16) (n : Nat) (cs : List CompSpec) :
    s.Taken (8 + 3 * cs.length) ((s.headed p y x n).withSpecs 0 cs) :=
  State.Taken.trans (t := s.headed p y x n) ⟨rfl, rfl⟩ (State.taken_withSpecs ..)

theorem State.specified_headed {y x : BitVec 16} (hn : n = 1 ∨ n = 3 ∨ n = 4) (hcs : ∀ c ∈ cs, c.Legal) (hlen : cs.length = n) :
    ((s.headed p y x n).withSpecs 0 cs).Specified cs where
  count := by
    rw [State.withSpecs_frame, hlen]
    rcases hn with rfl | rfl | rfl <;> rfl
  length_pos := by omega
  length_le := by omega
  legal := hcs
  h k c hc := by
    obtain ⟨-, hh, -⟩ := hcs c (List.mem_of_getElem? hc)
    rw [State.withSpecs_get (i := k.val) (by omega) hc (Nat.zero_add _).symm]
    exact Nat.mod_eq_of_lt (by omega)
  v k c hc := by
    obtain ⟨-, -, -, hv, -⟩ := hcs c (List.mem_of_getElem? hc)
    rw [State.withSpecs_get (i := k.val) (by omega) hc (Nat.zero_add _).symm]
    exact Nat.mod_eq_of_lt (by omega)

/-- The checks on the whole frame in their order, then the allocation and the end of the frame header (R233 to R238). -/
theorem State.Specified.sofRest_apply {u : State} (hu : u.Specified cs) :
    sofRest u =
      if u.cfg.maxAllocBytes < u.frame.imgX.toNat * u.frame.imgY.toNat * u.frame.imgN.toNat then .error (.raise .sizeOverflow) u
      else if ¬IntegerRatios cs then .error (.raise .nonIntegerSampling) (u.setFrame (u.frame.withMaxima cs))
      else if ∃ c ∈ cs, u.cfg.maxAllocBytes < planeBytes cs u.frame.imgX.toNat u.frame.imgY.toNat u.frame.progressive c then
        .error (.raise .sizeOverflow) (u.sized cs)
      else if u.cfg.planeMemBytes < (cs.map (planeBytes cs u.frame.imgX.toNat u.frame.imgY.toNat u.frame.progressive)).sum then
        .error (.raise .allocFailed) (u.sized cs)
      else .ok () (u.sized cs).allocate.completeFrame := by
  have hsize := sofSizeCheck_apply u
  have hsampling := hu.sofSampling_apply
  rcases em (u.cfg.maxAllocBytes < u.frame.imgX.toNat * u.frame.imgY.toNat * u.frame.imgN.toNat) with hbig | hbig
  · rw [if_pos hbig] at hsize ⊢
    exact seq_bind_error hsize _
  rw [if_neg hbig] at hsize ⊢
  refine (seq_bind_ok hsize _).trans ?_
  rcases em (¬IntegerRatios cs) with hratios | hratios
  · rw [if_neg hratios] at hsampling
    rw [if_pos hratios]
    exact seq_bind_error hsampling _
  rw [if_pos (not_not.1 hratios)] at hsampling
  rw [if_neg hratios]
  refine (seq_bind_ok hsampling _).trans ((seq_bind_ok (sofGeometry_apply _) _).trans ?_)
  rcases em (∃ c ∈ cs, u.cfg.maxAllocBytes < planeBytes cs u.frame.imgX.toNat u.frame.imgY.toNat u.frame.progressive c) with
    hplane | hplane
  · rw [if_pos hplane]
    exact seq_bind_error (hu.sofAllocate_tooBig hplane) _
  have hallocate := hu.sofAllocate_apply fun c hc => Nat.le_of_not_lt fun hbig => hplane ⟨c, hc, hbig⟩
  rw [if_neg hplane]
  rcases em (u.cfg.planeMemBytes <
    (cs.map (planeBytes cs u.frame.imgX.toNat u.frame.imgY.toNat u.frame.progressive)).sum) with hsum | hsum
  · rw [if_pos hsum] at hallocate ⊢
    exact seq_bind_error hallocate _
  rw [if_neg hsum] at hallocate ⊢
  exact seq_bind_ok hallocate _

theorem State.withSpecs_cfg (s : State) (j : Nat) (cs : List CompSpec) : (s.withSpecs j cs).cfg = s.cfg := by
  rw [State.withSpecs_eq]
  rfl

/-- A right head and right specifications, all of them: what the checks on the whole frame say of the numbers read. -/
theorem frameHeader_whole (hn : n = 1 ∨ n = 3 ∨ n = 4) (hy : (y1 ++ y0 : BitVec 16) ≠ 0) (hx : (x1 ++ x0 : BitVec 16) ≠ 0)
    (hcs : ∀ c ∈ cs, c.Legal) (hlen : cs.length = n)
    (h : s.port.input = 0x00 :: BitVec.ofNat 8 (8 + 3 * n) :: 0x08 :: y1 :: y0 :: x1 :: x0 :: BitVec.ofNat 8 n ::
      (specBytes cs ++ tail)) :
    let x := (x1 ++ x0 : BitVec 16).toNat
    let y := (y1 ++ y0 : BitVec 16).toNat
    let u := (s.headed p (y1 ++ y0) (x1 ++ x0) n).withSpecs 0 cs
    frameHeader p s =
      if s.cfg.maxAllocBytes < x * y * n then .error (.raise .sizeOverflow) u
      else if ¬IntegerRatios cs then .error (.raise .nonIntegerSampling) (u.setFrame (u.frame.withMaxima cs))
      else if ∃ c ∈ cs, s.cfg.maxAllocBytes < planeBytes cs x y p c then .error (.raise .sizeOverflow) (u.sized cs)
      else if s.cfg.planeMemBytes < (cs.map (planeBytes cs x y p)).sum then .error (.raise .allocFailed) (u.sized cs)
      else .ok () (u.sized cs).allocate.completeFrame := by
  intro x y u
  have hu : u.Specified cs := State.specified_headed hn hcs hlen
  have hframe : u.frame = s.frame.headed p (y1 ++ y0) (x1 ++ x0) n := State.withSpecs_frame ..
  have hX : u.frame.imgX.toNat = x := congrArg (fun f : Frame => f.imgX.toNat) hframe
  have hY : u.frame.imgY.toNat = y := congrArg (fun f : Frame => f.imgY.toNat) hframe
  have hprogressive : u.frame.progressive = p := congrArg Frame.progressive hframe
  have hcfg : u.cfg = s.cfg := State.withSpecs_cfg ..
  have hrest := hu.sofRest_apply
  rw [hX, hY, hu.count, hlen, hprogressive, hcfg] at hrest
  exact (frameHeader_specs (r := 0) hn hy hx hcs hlen h).trans hrest

end

/-- The state with its planes allocated, over frame registers and component records (R76). -/
def State.framed (s : State) (f : Frame) (comp : Vector Comp 4) : State :=
  { s with frame := f, comp := comp, planesAllocated := true }

theorem State.allocate_sized_eq (u : State) (cs : List CompSpec) :
    (u.sized cs).allocate = u.framed (u.sized cs).frame (u.sized cs).allocate.comp := rfl

/-- The end of the frame header (R238). -/
theorem State.completeFrame_framed {u : State} {f : Frame} {comp : Vector Comp 4} {outN : BitVec 3}
    (houtN : (if f.imgN = 1 then 1 else 3) = outN) :
    (u.framed f comp).completeFrame =
      { u with
        phase := .frame
        frame := { f with outN := outN }
        ctl := { u.ctl with geomValid := true }
        comp := comp
        planesAllocated := true
        port := { u.port with events := u.port.events ++ [.geom f.imgX f.imgY outN 8] } } := by
  subst houtN
  rfl

theorem State.framed_withSpecs (s : State) (p : Bool) (y x : BitVec 16) (n : Nat) (cs : List CompSpec) (f : Frame)
    (comp : Vector Comp 4) : ((s.headed p y x n).withSpecs 0 cs).framed f comp =
      ((s.consumed (8 + 3 * cs.length)).setFlags
        { s.flags with rgbIds := ((s.headed p y x n).withSpecs 0 cs).flags.rgbIds }).framed f comp := by
  refine (congrArg (fun u : State => u.framed f comp) ((s.headed p y x n).withSpecs_eq 0 cs)).trans ?_
  rw [← State.consumed_consumed]
  rfl

theorem length_specBytes (cs : List CompSpec) : (specBytes cs).length = 3 * cs.length := by
  unfold specBytes
  rw [List.length_flatMap]
  simp [Nat.mul_comm]

/-- What stands behind the eight bytes of the head and the specifications. -/
theorem headedBytes_drop (l1 l0 q y1 y0 x1 x0 n : Byte) (cs : List CompSpec) (rest : List Byte) :
    (l1 :: l0 :: q :: y1 :: y0 :: x1 :: x0 :: n :: (specBytes cs ++ rest)).drop (8 + 3 * cs.length) = rest := by
  rw [← length_specBytes, Nat.add_comm]
  exact List.drop_left

/-! ### What SOF answers -/

/-- A frame header marker and whether its frame is progressive (R230). -/
abbrev IsSof (i : Instr) (p : Bool) : Prop := (i = .sof0 ∧ p = false) ∨ (i = .sof1 ∧ p = false) ∨ (i = .sof2 ∧ p = true)

theorem exec_sof {s : State} {i : Instr} {p : Bool} (hi : IsSof i p) (hp : s.phase = .header) :
    exec i s = runOp (frameHeader p) s := by
  rcases hi with ⟨rfl, rfl⟩ | ⟨rfl, rfl⟩ | ⟨rfl, rfl⟩
  · exact runOp_sofMarker_header hp
  · exact runOp_sofMarker_header hp
  · exact runOp_sofMarker_header hp

/-- An error in one of the fields. -/
theorem exec_sof_field {s u : State} {i : Instr} {p : Bool} {e : ErrCode} (hi : IsSof i p) (hp : s.phase = .header)
    (h : sofFields (s.unheld.setFrame { s.frame with progressive := p }) = .error (.raise e) u) :
    exec i s = .next (u.takeError e) := by
  rw [exec_sof hi hp]
  refine runOp_raise ?_
  rw [frameHeader_eq, updFrame_bind]
  exact seq_bind_error h _

theorem State.completeFrame_get (s : State) (k : Fin 4) : s.completeFrame.comp.get k = s.comp.get k := rfl

theorem State.allocate_get (s : State) (k : Fin 4) :
    s.allocate.comp.get k = { s.comp.get k with plane := [], coef := [] } := by
  simp [State.allocate, Vector.get_eq_getElem]

/-- Settles O29: the header's pieces in their order, none of which finds an error. -/
theorem frameHeaderAccepted : Obligations.FrameHeaderAccepted := by
  intro s i p cs y1 y0 x1 x0 rest hi hp haccepted h x y outN
  obtain ⟨hn, hx, hy, hcs, hsize, hsum⟩ := haccepted
  have hlegal : ∀ c ∈ cs, c.Legal := fun c hc => by
    obtain ⟨hh, hh4, hv, hv4, ht, -⟩ := hcs c hc
    exact ⟨hh, hh4, hv, hv4, ht⟩
  have hratios : IntegerRatios cs := fun c hc => by
    obtain ⟨-, -, -, -, -, hmodH, hmodV, -⟩ := hcs c hc
    exact ⟨hmodH, hmodV⟩
  have hplanes : ¬∃ c ∈ cs, s.cfg.maxAllocBytes < planeBytes cs x y p c := fun ⟨c, hc, hbig⟩ => by
    obtain ⟨-, -, -, -, -, -, -, hfit⟩ := hcs c hc
    exact Nat.not_lt.2 hfit hbig
  have hwhole := frameHeader_whole (s := s.unheld) (p := p) hn (fun he => hy (congrArg BitVec.toNat he))
    (fun he => hx (congrArg BitVec.toNat he)) hlegal rfl h
  have hu := State.specified_headed (s := s.unheld) (p := p) (y := y1 ++ y0) (x := x1 ++ x0) hn hlegal rfl
  have hget {k : Fin 4} {c : CompSpec} (hc : cs[k.val]? = some c) :
      ((s.unheld.headed p (y1 ++ y0) (x1 ++ x0) cs.length).withSpecs 0 cs).comp.get k = (s.comp.get k).withSpec c :=
    State.withSpecs_get (by omega) hc (Nat.zero_add _).symm
  have houtside {k : Fin 4} (hk : cs.length ≤ k.val) :
      ((s.unheld.headed p (y1 ++ y0) (x1 ++ x0) cs.length).withSpecs 0 cs).comp.get k = s.comp.get k :=
    State.withSpecs_get_outside (by omega) (.inr (by omega))
  have hrgb : ((s.unheld.headed p (y1 ++ y0) (x1 ++ x0) cs.length).withSpecs 0 cs).flags.rgbIds = BitVec.ofNat 2 (rgbCount cs) :=
    State.withSpecs_rgbIds hn rfl rfl
  refine ⟨_, (exec_sof hi hp).trans (runOp_ok (hwhole.trans ((if_neg (Nat.not_lt.2 hsize)).trans
    ((if_neg (not_not.2 hratios)).trans ((if_neg hplanes).trans (if_neg (Nat.not_lt.2 hsum))))))), ?_, fun k c hc => ?_,
    fun k hk => ?_⟩
  · have hinput : s.port.input.drop (8 + 3 * cs.length) = rest := by
      rw [h]
      exact headedBytes_drop ..
    have houtN : (if (BitVec.ofNat 3 cs.length : BitVec 3) = 1 then 1 else 3 : BitVec 3) = outN := by
      show _ = if cs.length = 1 then 1 else 3
      rcases hn with hn | hn | hn <;> rw [hn] <;> rfl
    refine (congrArg State.completeFrame (State.allocate_sized_eq ..)).trans ?_
    rw [hu.sized_frame, State.withSpecs_frame, State.framed_withSpecs, hrgb]
    refine (State.completeFrame_framed houtN).trans ?_
    rw [← hinput]
    rfl
  · rw [State.completeFrame_get, State.allocate_get, hu.sized_get hc, hget hc, State.withSpecs_frame]
    rfl
  · rw [State.completeFrame_get, State.allocate_get, hu.sized_get_outside hk, houtside hk]

/-- Settles O30: the checks in stream order; the fields, then a specification after right ones, then the whole frame. -/
theorem frameFieldErrors : Obligations.FrameFieldErrors := by
  refine ⟨fun s i l1 l0 p y1 y0 x1 x0 n rest hp hi h => ?_, fun s i p cs y1 y0 x1 x0 n tail hi hp hn hy hx hcs h => ?_⟩
  · intro L fails
    obtain ⟨q, hi⟩ : ∃ q, IsSof i q := by
      rcases hi with rfl | rfl | rfl
      · exact ⟨false, .inl ⟨rfl, rfl⟩⟩
      · exact ⟨false, .inr (.inl ⟨rfl, rfl⟩)⟩
      · exact ⟨true, .inr (.inr ⟨rfl, rfl⟩)⟩
    have hfields := sofFields_apply (s := s.unheld.setFrame { s.frame with progressive := q }) h
    refine ⟨fun hL => ?_, fun hL hp8 => ?_, fun hL hp8 hy => ?_, fun hL hp8 hy hx => ?_, fun hL hp8 hy hx h1 h3 h4 => ?_,
      fun hL hp8 hy hx hn hlen => ?_⟩
    · rw [if_pos hL] at hfields
      exact ⟨_, exec_sof_field hi hp hfields, rfl, rfl, rfl, rfl, rfl, rfl, rfl⟩
    · rw [if_neg (Nat.not_lt.2 hL), if_pos hp8] at hfields
      exact ⟨_, exec_sof_field hi hp hfields, rfl, rfl, rfl, rfl, rfl, rfl, rfl⟩
    · rw [if_neg (Nat.not_lt.2 hL), if_neg (not_not.2 hp8), if_pos hy] at hfields
      exact ⟨_, exec_sof_field hi hp hfields, rfl, rfl, rfl, rfl, rfl, rfl, rfl⟩
    · rw [if_neg (Nat.not_lt.2 hL), if_neg (not_not.2 hp8), if_neg hy, if_pos hx] at hfields
      exact ⟨_, exec_sof_field hi hp hfields, rfl, rfl, rfl, rfl, rfl, rfl, rfl⟩
    · rw [if_neg (Nat.not_lt.2 hL), if_neg (not_not.2 hp8), if_neg hy, if_neg hx,
        if_pos (by rintro (hn | hn | hn) <;> contradiction)] at hfields
      exact ⟨_, exec_sof_field hi hp hfields, rfl, rfl, rfl, rfl, rfl, rfl, rfl⟩
    · rw [if_neg (Nat.not_lt.2 hL), if_neg (not_not.2 hp8), if_neg hy, if_neg hx, if_neg (not_not.2 hn), if_pos hlen] at hfields
      exact ⟨_, exec_sof_field hi hp hfields, rfl, rfl, rfl, rfl, rfl, rfl, rfl⟩
  · intro x y fails
    have hraise {k : Nat} {e : ErrCode} {u : State} (herror : frameHeader p s.unheld = .error (.raise e) u) (htaken : s.Taken k u)
        (hkept : u.planesAllocated = s.planesAllocated ∧ u.port.events = s.port.events) : fails k e :=
      ⟨_, (exec_sof hi hp).trans (runOp_raise herror), rfl, rfl, rfl, htaken.1, htaken.2, hkept.1, hkept.2⟩
    have htaken : s.Taken (8 + 3 * cs.length) ((s.unheld.headed p (y1 ++ y0) (x1 ++ x0) n).withSpecs 0 cs) :=
      s.unheld.taken_headed p (y1 ++ y0) (x1 ++ x0) n cs
    have hkept : ((s.unheld.headed p (y1 ++ y0) (x1 ++ x0) n).withSpecs 0 cs).planesAllocated = s.planesAllocated ∧
        ((s.unheld.headed p (y1 ++ y0) (x1 ++ x0) n).withSpecs 0 cs).port.events = s.port.events := by
      rw [State.withSpecs_eq]
      exact ⟨rfl, rfl⟩
    refine ⟨fun c rest hlt htail => ?_, fun hlen => ?_⟩
    · have hnext : ((s.unheld.headed p (y1 ++ y0) (x1 ++ x0) n).withSpecs 0 cs).port.input = c.id :: c.hv :: c.tq :: rest := by
        rw [htaken.2, h, htail]
        exact headedBytes_drop ..
      have hcomponent := sofComponent_apply (i := Fin.ofNat 4 cs.length) hnext
      have herror {e : ErrCode} {u : State} (he : sofComponent (Fin.ofNat 4 cs.length)
          ((s.unheld.headed p (y1 ++ y0) (x1 ++ x0) n).withSpecs 0 cs) = .error (.raise e) u) :
          frameHeader p s.unheld = .error (.raise e) u := frameHeader_nextSpec (s := s.unheld) hn hy hx hcs hlt h he
      have htwo : 10 + 3 * cs.length = 8 + 3 * cs.length + 2 := by omega
      have hthree : 11 + 3 * cs.length = 8 + 3 * cs.length + 3 := by omega
      rw [htwo, hthree]
      refine ⟨fun hh => ?_, fun hh hh4 hv => ?_, fun hh hh4 hv hv4 ht => ?_⟩
      · rw [if_pos hh] at hcomponent
        exact hraise (herror hcomponent) (htaken.trans ⟨rfl, rfl⟩) hkept
      · rw [if_neg (by omega), if_pos hv] at hcomponent
        exact hraise (herror hcomponent) (htaken.trans ⟨rfl, rfl⟩) hkept
      · rw [if_neg (by omega), if_neg (by omega), if_pos ht] at hcomponent
        exact hraise (herror hcomponent) (htaken.trans ⟨rfl, rfl⟩) hkept
    · have hwhole := frameHeader_whole (s := s.unheld) (p := p) hn hy hx hcs hlen h
      rw [hlen] at htaken
      refine ⟨fun hbig => ?_, fun hfit hratios => ?_, fun hfit hratios hplane => ?_, fun hfit hratios hplanes hsum => ?_⟩
      · exact hraise (hwhole.trans (if_pos hbig)) htaken hkept
      · exact hraise (hwhole.trans ((if_neg (Nat.not_lt.2 hfit)).trans (if_pos hratios))) htaken hkept
      · exact hraise (hwhole.trans ((if_neg (Nat.not_lt.2 hfit)).trans ((if_neg (not_not.2 hratios)).trans (if_pos hplane))))
          htaken hkept
      · have hnone : ¬∃ c ∈ cs, s.cfg.maxAllocBytes < planeBytes cs x y p c := fun ⟨c, hc, hbig⟩ =>
          Nat.not_lt.2 (hplanes c hc) hbig
        exact hraise (hwhole.trans ((if_neg (Nat.not_lt.2 hfit)).trans ((if_neg (not_not.2 hratios)).trans
          ((if_neg hnone).trans (if_pos hsum))))) htaken hkept

/-! ### The scan header's count (R241) -/

theorem sosCount_apply {s : State} {l1 l0 n : Byte} {rest : List Byte} (h : s.port.input = l1 :: l0 :: n :: rest) :
    sosCount s =
      if ¬(1 ≤ n.toNat ∧ n.toNat ≤ 4 ∧ n.toNat ≤ s.frame.imgN.toNat) then
        .error (.raise .badSosComponentCount) ((s.consumed 3).setScan { s.scan with scanN := n.truncate 3 })
      else if (l1 ++ l0 : BitVec 16).toNat ≠ 6 + 2 * n.toNat then
        .error (.raise .badSosLength) ((s.consumed 3).setScan { s.scan with scanN := n.truncate 3 })
      else .ok n.toNat ((s.consumed 3).setScan { s.scan with scanN := n.truncate 3 }) := by
  have hn : (s.consumed 2).port.input = n :: rest := State.consumed_input (l := [l1, l0]) h
  rw [sosCount, seq_bind_ok (readU16_consumed h), seq_bind_ok (readU8_consumed hn), State.consumed_consumed, updScan_bind, look_bind,
    check_bind]
  refine if_congr ?_ rfl ?_
  · show (decide (n.toNat < 1) || decide (4 < n.toNat) || decide (s.frame.imgN.toNat < n.toNat)) = true ↔ _
    simp only [Bool.or_eq_true, decide_eq_true_eq]
    omega
  · rw [check_bind]
    exact if_congr (by simp) rfl rfl

/-! ### One binding (R242) -/

/-- A component record bound to the tables of a binding's byte (R242). -/
def Comp.bound (r : Comp) (q : Byte) : Comp :=
  { r with hd := BitVec.ofNat 2 (q.toNat / 16), ha := BitVec.ofNat 2 (q.toNat % 16) }

/-- The state after a binding at scan position `j` (R242). -/
def State.withBinding (s : State) (j : Fin 4) (b : Fin 4 × Byte) : State :=
  ((s.consumed 2).setComp b.1 ((s.comp.get b.1).bound b.2)).setScan
    { s.scan with order := s.scan.order.set j.val (BitVec.ofNat 2 b.1.val) j.isLt }

section
variable {s : State} {j : Fin 4} {id q : Byte} {rest : List Byte}

theorem sosBinding_unknown (hfind : s.findComp id = none) (h : s.port.input = id :: q :: rest) :
    sosBinding j s = .error (.raise .badSosComponentId) (s.consumed 2) := by
  have hq : (s.consumed 1).port.input = q :: rest := State.consumed_input (l := [id]) h
  have hnone : (s.consumed 2).findComp id = none := hfind
  rw [sosBinding, seq_bind_ok (readU8_consumed h), seq_bind_ok (readU8_consumed hq), State.consumed_consumed, look_bind, hnone]
  rfl

/-- A binding of a live component, with the checks of its table ids in stream order. -/
theorem sosBinding_known {w : Fin 4} (hfind : s.findComp id = some w) (h : s.port.input = id :: q :: rest) :
    sosBinding j s =
      if 3 < q.toNat / 16 then
        .error (.raise .badDcTableIndex)
          ((s.consumed 2).setComp w { s.comp.get w with hd := BitVec.ofNat 2 (q.toNat / 16) })
      else if 3 < q.toNat % 16 then
        .error (.raise .badAcTableIndex) ((s.consumed 2).setComp w ((s.comp.get w).bound q))
      else .ok () (s.withBinding j (w, q)) := by
  have hq : (s.consumed 1).port.input = q :: rest := State.consumed_input (l := [id]) h
  have hsome : (s.consumed 2).findComp id = some w := hfind
  rw [sosBinding, seq_bind_ok (readU8_consumed h), seq_bind_ok (readU8_consumed hq), State.consumed_consumed, look_bind, hsome]
  dsimp only
  rw [updComp_bind, check_bind]
  refine if_congr (by simp) rfl ?_
  rw [updComp_bind, check_bind, State.setComp_comp_same, State.setComp_setComp]
  exact if_congr (by simp) rfl rfl

end

/-! ### The bindings of a scan header (R242) -/

/-- The state after some bindings, from scan position `j` on. -/
def State.withBindings (s : State) (j : Nat) : List (Fin 4 × Byte) → State
  | [] => s
  | b :: bs => (s.withBinding (Fin.ofNat 4 j) b).withBindings (j + 1) bs

section
variable {s : State} {bs : List (Fin 4 × Byte)} {j : Nat}

theorem State.withBinding_get (s : State) (j : Fin 4) (b : Fin 4 × Byte) (c : Fin 4) :
    (s.withBinding j b).comp.get c = if b.1 = c then (s.comp.get b.1).bound b.2 else s.comp.get c :=
  comp_set_get (s.consumed 2) ..

/-- A binding changes no id. -/
theorem State.withBinding_id (s : State) (j : Fin 4) (b : Fin 4 × Byte) (c : Fin 4) :
    ((s.withBinding j b).comp.get c).id = (s.comp.get c).id := by
  rw [State.withBinding_get]
  split
  · next h => rw [← h]; rfl
  · rfl

/-- A binding leaves the component that an id finds. -/
theorem State.withBinding_findComp (s : State) (j : Fin 4) (b : Fin 4 × Byte) (id : Byte) :
    (s.withBinding j b).findComp id = s.findComp id := by
  have hids : (fun i => ((s.withBinding j b).comp.get i).id == id) = fun i => (s.comp.get i).id == id :=
    funext fun i => by rw [State.withBinding_id]
  show List.find? (fun i => ((s.withBinding j b).comp.get i).id == id) s.live = _
  rw [hids]
  rfl

theorem State.withBinding_legal (s : State) (j : Fin 4) (b p : Fin 4 × Byte) :
    (s.withBinding j b).LegalBinding p ↔ s.LegalBinding p := by
  unfold State.LegalBinding
  rw [State.withBinding_findComp, State.withBinding_id]

theorem State.withBinding_bytes (s : State) (j : Fin 4) (b : Fin 4 × Byte) (bs : List (Fin 4 × Byte)) :
    (s.withBinding j b).bindingBytes bs = s.bindingBytes bs := by
  unfold State.bindingBytes
  exact List.flatMap_congr fun p _ => by rw [State.withBinding_id]

theorem State.withBindings_findComp (s : State) (j : Nat) (bs : List (Fin 4 × Byte)) (id : Byte) :
    (s.withBindings j bs).findComp id = s.findComp id := by
  induction bs generalizing s j with
  | nil => rfl
  | cons b bs ih => rw [State.withBindings, ih, State.withBinding_findComp]

/-- Bindings take their bytes and write component records and the order of the scan, and nothing else. -/
theorem State.withBindings_eq (s : State) (j : Nat) (bs : List (Fin 4 × Byte)) :
    s.withBindings j bs = { s.consumed (2 * bs.length) with
      comp := (s.withBindings j bs).comp, scan := { s.scan with order := (s.withBindings j bs).scan.order } } := by
  induction bs generalizing s j with
  | nil => rw [List.length_nil, Nat.mul_zero, State.consumed_zero]; rfl
  | cons b bs ih =>
    have hconsumed : s.consumed (2 * (bs.length + 1)) = (s.consumed 2).consumed (2 * bs.length) := by
      rw [State.consumed_consumed, Nat.mul_succ, Nat.add_comm]
    rw [State.withBindings, ih, List.length_cons, hconsumed]
    rfl

theorem State.taken_withBindings (s : State) (j : Nat) (bs : List (Fin 4 × Byte)) :
    s.Taken (2 * bs.length) (s.withBindings j bs) := by
  rw [State.withBindings_eq]
  exact ⟨rfl, rfl⟩

theorem State.length_bindingBytes (s : State) (bs : List (Fin 4 × Byte)) : (s.bindingBytes bs).length = 2 * bs.length := by
  unfold State.bindingBytes
  rw [List.length_flatMap]
  simp [Nat.mul_comm]

/-- The bindings that are right, one after the other; the positions that are left go on behind them. -/
theorem forEach_sosBinding {rest : List Byte} (r : Nat) (hbs : ∀ p ∈ bs, s.LegalBinding p)
    (h : s.port.input = s.bindingBytes bs ++ rest) :
    forEach ((List.range' j (bs.length + r)).map (Fin.ofNat 4)) sosBinding s =
      forEach ((List.range' (j + bs.length) r).map (Fin.ofNat 4)) sosBinding (s.withBindings j bs) := by
  induction bs generalizing s j with
  | nil => rw [List.length_nil, Nat.zero_add, Nat.add_zero]; rfl
  | cons b bs ih =>
    obtain ⟨hfind, hdc, hac⟩ := hbs b (List.mem_cons_self ..)
    have hb : s.port.input = (s.comp.get b.1).id :: b.2 :: (s.bindingBytes bs ++ rest) := h
    have hstep : sosBinding (Fin.ofNat 4 j) s = .ok () (s.withBinding (Fin.ofNat 4 j) b) := by
      rw [sosBinding_known hfind hb, if_neg (by omega), if_neg (by omega)]
    have hnext : (s.withBinding (Fin.ofNat 4 j) b).port.input = (s.withBinding (Fin.ofNat 4 j) b).bindingBytes bs ++ rest := by
      rw [State.withBinding_bytes]
      exact State.consumed_input (l := [(s.comp.get b.1).id, b.2]) hb
    have hlegal : ∀ p ∈ bs, (s.withBinding (Fin.ofNat 4 j) b).LegalBinding p := fun p hp =>
      (s.withBinding_legal _ b p).2 (hbs p (List.mem_cons_of_mem _ hp))
    rw [List.length_cons, Nat.succ_add, List.range'_succ, List.map_cons, forEach_cons, seq_bind_ok hstep, ih hlegal hnext,
      Nat.add_assoc, Nat.add_comm 1]
    rfl

/-- The byte a component keeps: that of its last binding. -/
theorem lastBinding_cons (c : Fin 4) (b : Fin 4 × Byte) (bs : List (Fin 4 × Byte)) :
    lastBinding c (b :: bs) = if c ∈ bs.map Prod.fst then lastBinding c bs else if b.1 = c then b.2 else 0 := by
  unfold lastBinding
  by_cases hmem : c ∈ bs.map Prod.fst
  · obtain ⟨p, hp, rfl⟩ := List.mem_map.1 hmem
    have hne : bs.filter (fun q => q.1 == p.1) ≠ [] := List.ne_nil_of_mem (List.mem_filter.2 ⟨hp, beq_self_eq_true _⟩)
    rw [if_pos hmem, List.filter_cons]
    split
    · rw [List.getLast?_cons_of_ne_nil hne]
    · rfl
  · have hnil : bs.filter (fun q => q.1 == c) = [] := List.filter_eq_nil_iff.2 fun p hp he =>
      hmem (List.mem_map.2 ⟨p, hp, eq_of_beq he⟩)
    rw [if_neg hmem, List.filter_cons, hnil]
    by_cases hb : b.1 = c
    · rw [if_pos (beq_iff_eq.2 hb), if_pos hb]
      rfl
    · rw [if_neg (by simpa using hb), if_neg hb]
      rfl

/-- Each component is bound by its last binding. -/
theorem State.withBindings_get (s : State) (j : Nat) (bs : List (Fin 4 × Byte)) (c : Fin 4) :
    (s.withBindings j bs).comp.get c =
      if c ∈ bs.map Prod.fst then (s.comp.get c).bound (lastBinding c bs) else s.comp.get c := by
  induction bs generalizing s j with
  | nil => rfl
  | cons b bs ih =>
    rw [State.withBindings, ih, State.withBinding_get, lastBinding_cons, List.map_cons]
    by_cases hb : b.1 = c
    · subst hb
      rw [if_pos rfl, if_pos (List.mem_cons_self ..)]
      by_cases hmem : b.1 ∈ bs.map Prod.fst
      · rw [if_pos hmem, if_pos hmem]
        rfl
      · rw [if_neg hmem, if_neg hmem, if_pos rfl]
    · rw [if_neg hb]
      by_cases hmem : c ∈ bs.map Prod.fst
      · rw [if_pos hmem, if_pos (List.mem_cons_of_mem _ hmem), if_pos hmem]
      · rw [if_neg hmem, if_neg fun h => (List.mem_cons.1 h).elim (fun h => hb h.symm) hmem]

theorem order_set_get (v : Vector (BitVec 2) 4) (i k : Fin 4) (x : BitVec 2) :
    (v.set i.val x i.isLt).get k = if i = k then x else v.get k := by
  simp only [Vector.get_eq_getElem, Vector.getElem_set, Fin.ext_iff]

/-- A scan position outside those of the bindings. -/
theorem State.withBindings_order_outside {k : Fin 4} (hfit : j + bs.length ≤ 4) (hk : k.val < j ∨ j + bs.length ≤ k.val) :
    (s.withBindings j bs).scan.order.get k = s.scan.order.get k := by
  induction bs generalizing s j with
  | nil => rfl
  | cons b bs ih =>
    rw [List.length_cons] at hfit hk
    have hj : (Fin.ofNat 4 j).val = j := Nat.mod_eq_of_lt (by omega)
    have hne : Fin.ofNat 4 j ≠ k := fun he => by have := congrArg Fin.val he; omega
    rw [State.withBindings, ih (by omega) (by omega)]
    exact (order_set_get ..).trans (if_neg hne)

/-- The scan position of a binding holds its component. -/
theorem State.withBindings_order {k : Fin 4} {i : Nat} {p : Fin 4 × Byte} (hfit : j + bs.length ≤ 4) (hp : bs[i]? = some p)
    (hk : k.val = j + i) : (s.withBindings j bs).scan.order.get k = BitVec.ofNat 2 p.1.val := by
  induction bs generalizing s j i with
  | nil => cases hp
  | cons b bs ih =>
    rw [List.length_cons] at hfit
    cases i with
    | zero =>
      cases hp
      have hj : Fin.ofNat 4 j = k := Fin.ext ((Nat.mod_eq_of_lt (by omega)).trans hk.symm)
      rw [State.withBindings, State.withBindings_order_outside (by omega) (.inl (by omega))]
      exact (order_set_get ..).trans (if_pos hj)
    | succ i => exact ih (by omega) hp (by omega)

end

/-! ### The parameters of a scan header (R243, R244) -/

/-- The scan registers with the three parameter bytes (R243). -/
def Scan.withParameters (c : Scan) (ss se a : Byte) : Scan :=
  { c with specStart := ss, specEnd := se, succHigh := a.extractLsb' 4 4, succLow := a.extractLsb' 0 4 }

theorem high_toNat (a : Byte) : (a.extractLsb' 4 4).toNat = a.toNat / 16 := by
  have ha := a.isLt
  rw [BitVec.extractLsb'_toNat, Nat.shiftRight_eq_div_pow, Nat.mod_eq_of_lt (by omega)]

theorem low_toNat (a : Byte) : (a.extractLsb' 0 4).toNat = a.toNat % 16 := by
  rw [BitVec.extractLsb'_toNat, Nat.shiftRight_zero]

/-- A byte is 0 exactly if both its nibbles are. -/
theorem nibbles_eq_zero (a : Byte) : (a.extractLsb' 4 4 = 0 ∧ a.extractLsb' 0 4 = 0) ↔ a = 0 := by
  rw [← BitVec.toNat_inj, ← BitVec.toNat_inj, ← BitVec.toNat_inj, high_toNat, low_toNat]
  show a.toNat / 16 = 0 ∧ a.toNat % 16 = 0 ↔ a.toNat = 0
  omega

section
variable {s : State} {ss se a : Byte} {rest : List Byte}

/-- The three bytes, and then the checks of the frame's process. -/
theorem sosParameters_read (h : s.port.input = ss :: se :: a :: rest) :
    sosParameters s = (if s.frame.progressive then check (s.scan.withParameters ss se a).badProgressive .badSos else sosSequential)
      ((s.consumed 3).setScan (s.scan.withParameters ss se a)) := by
  have hse : ((s.consumed 1).setScan { s.scan with specStart := ss }).port.input = se :: a :: rest :=
    State.consumed_input (l := [ss]) h
  have ha : ((s.consumed 2).setScan { s.scan with specStart := ss, specEnd := se }).port.input = a :: rest :=
    State.consumed_input (l := [ss, se]) h
  have hstep (k : Nat) (c : Scan) : ((s.consumed k).setScan c).consumed 1 = (s.consumed (k + 1)).setScan c :=
    congrArg (State.setScan c) (s.consumed_consumed k 1)
  rw [sosParameters, seq_bind_ok (readU8_consumed h), updScan_bind]
  refine (seq_bind_ok (readU8_consumed hse) _).trans ?_
  rw [hstep, updScan_bind]
  refine (seq_bind_ok (readU8_consumed ha) _).trans ?_
  rw [hstep, updScan_bind, look_bind]
  show (if s.frame.progressive then _ else sosSequential) _ = _
  split <;> rfl

theorem badProgressive_iff (c : Scan) : (c.withParameters ss se a).badProgressive = true ↔
    ¬(ss.toNat ≤ se.toNat ∧ se.toNat ≤ 63 ∧ a.toNat / 16 ≤ 13 ∧ a.toNat % 16 ≤ 13) := by
  show (decide (63 < ss.toNat) || decide (63 < se.toNat) || decide (se.toNat < ss.toNat)
    || decide (13 < (a.extractLsb' 4 4).toNat) || decide (13 < (a.extractLsb' 0 4).toNat)) = true ↔ _
  simp only [high_toNat, low_toNat, Bool.or_eq_true, decide_eq_true_eq]
  omega

/-- The checks of a sequential frame, on the parameters read. -/
theorem sosSequential_apply (hscan : ∃ c : Scan, s.scan = c.withParameters ss se a) :
    sosSequential s = if ¬(ss = 0 ∧ a = 0 ∧ (s.cfg.strictBaselineSpecEnd = true → se = 63)) then .error (.raise .badSos) s
      else .ok () (s.setScan { s.scan with specEnd := 63 }) := by
  obtain ⟨c, hc⟩ := hscan
  have hstart : s.scan.specStart = ss := congrArg Scan.specStart hc
  have hend : s.scan.specEnd = se := congrArg Scan.specEnd hc
  have hhigh : s.scan.succHigh = a.extractLsb' 4 4 := congrArg Scan.succHigh hc
  have hlow : s.scan.succLow = a.extractLsb' 0 4 := congrArg Scan.succLow hc
  have hnibbles := nibbles_eq_zero a
  rw [sosSequential, look_bind, check_bind, check_bind, look_bind, check_bind, hstart, hend, hhigh, hlow]
  rcases em (ss ≠ 0) with hss | hss
  · rw [if_pos (bne_iff_ne.2 hss), if_pos fun h => hss h.1]
  rw [if_neg fun h => hss (bne_iff_ne.1 h)]
  rcases em (a ≠ 0) with ha | ha
  · have hone : (a.extractLsb' 4 4 != 0 || a.extractLsb' 0 4 != 0) = true := by
      rw [Bool.or_eq_true, bne_iff_ne, bne_iff_ne, ← not_and_or]
      exact fun h => ha (hnibbles.1 h)
    rw [if_pos hone, if_pos fun h => ha h.2.1]
  obtain ⟨hzero, hzero'⟩ := hnibbles.2 (not_not.1 ha)
  rw [hzero, hzero', if_neg (by decide)]
  rcases em (s.cfg.strictBaselineSpecEnd = true → se = 63) with hstrict | hstrict
  · rw [if_neg (by simpa using hstrict), if_neg (not_not.2 ⟨not_not.1 hss, not_not.1 ha, hstrict⟩)]
    rfl
  · rw [if_pos (by simpa using hstrict), if_pos fun h => hstrict h.2.2]

/-- Parameters that the rules accept (R243, R244). -/
theorem sosParameters_legal (hlegal : s.LegalParameters ss se a) (h : s.port.input = ss :: se :: a :: rest) :
    sosParameters s = .ok () ((s.consumed 3).setScan
      (s.scan.withParameters ss (if s.frame.progressive then se else 63) a)) := by
  rw [sosParameters_read h]
  unfold State.LegalParameters at hlegal
  cases hp : s.frame.progressive with
  | true =>
    rw [hp] at hlegal
    rw [if_pos rfl, check_apply, if_neg fun hbad => (badProgressive_iff _).1 hbad hlegal]
    rfl
  | false =>
    rw [hp] at hlegal
    exact (sosSequential_apply ⟨_, rfl⟩).trans (if_neg (not_not.2 hlegal))

theorem sosParameters_illegal (hlegal : ¬s.LegalParameters ss se a) (h : s.port.input = ss :: se :: a :: rest) :
    sosParameters s = .error (.raise .badSos) ((s.consumed 3).setScan (s.scan.withParameters ss se a)) := by
  rw [sosParameters_read h]
  unfold State.LegalParameters at hlegal
  cases hp : s.frame.progressive with
  | true =>
    rw [hp] at hlegal
    rw [if_pos rfl, check_apply, if_pos ((badProgressive_iff _).2 hlegal)]
  | false =>
    rw [hp] at hlegal
    exact (sosSequential_apply ⟨_, rfl⟩).trans (if_pos hlegal)

end

/-! ### The tables a scan needs (R245) -/

theorem idx2_ofNat (m : Nat) : idx2 (BitVec.ofNat 2 m) = Fin.ofNat 4 m := Fin.ext (BitVec.toNat_ofNat ..)

/-- `w` is `s` with the bindings and the parameters of a scan header read, as far as the tables it needs depend on it. -/
structure State.ScanRead (s w : State) (bs : List (Fin 4 × Byte)) (ss a : Byte) : Prop where
  frame : w.frame = s.frame
  huff : w.huff = s.huff
  qtLoaded : w.qtLoaded = s.qtLoaded
  specStart : w.scan.specStart = ss
  succHigh : w.scan.succHigh = a.extractLsb' 4 4
  bound : ∀ (k : Fin 4) (p : Fin 4 × Byte), bs[k.val]? = some p →
    w.comp.get (idx2 (w.scan.order.get k)) = (s.comp.get p.1).bound (lastBinding p.1 bs)

namespace State.ScanRead

variable {s w : State} {bs : List (Fin 4 × Byte)} {ss a : Byte} (hw : s.ScanRead w bs ss a)
include hw

theorem lacksHuffman_iff (r : Comp) (q : Byte) : w.lacksHuffman (r.bound q) = true ↔ ¬s.HuffmanPresent ss a q := by
  have hdc : w.huffAt 0 (idx2 (r.bound q).hd) = s.huffAt 0 (Fin.ofNat 4 (q.toNat / 16)) := by
    rw [State.huffAt, hw.huff, ← idx2_ofNat]
    rfl
  have hac : w.huffAt 1 (idx2 (r.bound q).ha) = s.huffAt 1 (Fin.ofNat 4 (q.toNat % 16)) := by
    rw [State.huffAt, hw.huff, ← idx2_ofNat]
    rfl
  have hhigh : (a.extractLsb' 4 4 == 0) = decide (a.toNat / 16 = 0) := by
    rw [← high_toNat, Bool.eq_iff_iff, beq_iff_eq, decide_eq_true_iff, ← BitVec.toNat_inj]
    rfl
  rw [State.lacksHuffman, hw.frame, hw.specStart, hw.succHigh, hdc, hac, hhigh]
  unfold State.HuffmanPresent
  cases s.frame.progressive
  · simp [imp_iff_not_or]
  · by_cases hss : ss = 0#8 <;> simp [hss]

variable {k : Fin 4} {p : Fin 4 × Byte} (hp : bs[k.val]? = some p)
include hp

theorem sosTables_missingHuffman (h : ¬s.HuffmanPresent ss a (lastBinding p.1 bs)) :
    sosTables k w = .error (.raise .missingHuffmanTable) w := by
  rw [sosTables, look_bind, hw.bound k p hp, look_bind, check_bind, if_pos ((hw.lacksHuffman_iff _ _).2 h)]

theorem sosTables_huffman (h : s.HuffmanPresent ss a (lastBinding p.1 bs)) :
    sosTables k w = check (!s.frame.progressive && !s.qtLoaded.get (idx2 (s.comp.get p.1).tq)) .missingQuantTable w := by
  rw [sosTables, look_bind, hw.bound k p hp, look_bind, check_bind, if_neg fun hlacks => (hw.lacksHuffman_iff _ _).1 hlacks h,
    look_bind, hw.frame, hw.qtLoaded]
  rfl

theorem sosTables_missingQuant (h : s.HuffmanPresent ss a (lastBinding p.1 bs)) (hq : ¬s.QuantPresent p.1) :
    sosTables k w = .error (.raise .missingQuantTable) w := by
  rw [hw.sosTables_huffman hp h, check_apply, if_pos (by simpa [State.QuantPresent] using hq)]

theorem sosTables_ok (h : s.HuffmanPresent ss a (lastBinding p.1 bs)) (hq : s.QuantPresent p.1) : sosTables k w = .ok () w := by
  rw [hw.sosTables_huffman hp h, check_apply, if_neg (by simpa [State.QuantPresent] using hq)]

end State.ScanRead

/-- A loop whose first rounds change nothing. -/
theorem forEach_skip {α : Type} {f : α → Seq Unit} {s : State} {xs : List α} (ys : List α) (h : ∀ x ∈ xs, f x s = .ok () s) :
    forEach (xs ++ ys) f s = forEach ys f s := by
  induction xs with
  | nil => rfl
  | cons x xs ih =>
    rw [List.cons_append, forEach_cons, seq_bind_ok (h x (List.mem_cons_self ..)), ih fun y hy => h y (List.mem_cons_of_mem _ hy)]

/-! ### The scan header as a whole -/

/-- What the scan header does once its bindings have been read (R243 to R246). -/
def scanRest (n : Nat) : Seq Unit := do
  sosParameters
  forEach (scanPositions n) sosTables
  upd State.startScan

/-- The state before the bindings (R241). -/
def State.counted (s : State) (n : Byte) : State := (s.consumed 3).setScan { s.scan with scanN := n.truncate 3 }

/-- The state before the tables are looked for (R243), with the end of the band that the process asks for. -/
def State.scanRead (s : State) (n : Byte) (bs : List (Fin 4 × Byte)) (ss se a : Byte) : State :=
  (((s.counted n).withBindings 0 bs).consumed 3).setScan (((s.counted n).withBindings 0 bs).scan.withParameters ss se a)

section
variable {s : State} {l1 l0 n : Byte} {bs : List (Fin 4 × Byte)} {tail : List Byte}

/-- A right count and right bindings: the header goes on with the bindings that are left. -/
theorem startOfScan_bindings {r : Nat} (hcount : 1 ≤ n.toNat ∧ n.toNat ≤ 4 ∧ n.toNat ≤ s.frame.imgN.toNat)
    (hL : (l1 ++ l0 : BitVec 16).toNat = 6 + 2 * n.toNat) (hbs : ∀ p ∈ bs, s.LegalBinding p) (hlen : bs.length + r = n.toNat)
    (h : s.port.input = l1 :: l0 :: n :: (s.bindingBytes bs ++ tail)) :
    startOfScan s = (do
      forEach ((List.range' bs.length r).map (Fin.ofNat 4)) sosBinding
      scanRest n.toNat : Seq Unit) ((s.counted n).withBindings 0 bs) := by
  have hn : sosCount s = .ok n.toNat (s.counted n) := by
    rw [sosCount_apply h, if_neg (not_not.2 hcount), if_neg (not_not.2 hL)]
    rfl
  have hbindings := forEach_sosBinding (s := s.counted n) (j := 0) (rest := tail) r hbs (State.consumed_input (l := [l1, l0, n]) h)
  rw [Nat.zero_add, hlen, ← List.range_eq_range'] at hbindings
  rw [startOfScan, seq_bind_ok hn, scanPositions, seq_bind, seq_bind, hbindings]
  rfl

theorem State.taken_counted (s : State) (n : Byte) (bs : List (Fin 4 × Byte)) :
    s.Taken (3 + 2 * bs.length) ((s.counted n).withBindings 0 bs) :=
  State.Taken.trans (t := s.counted n) ⟨rfl, rfl⟩ (State.taken_withBindings ..)

theorem State.counted_input (h : s.port.input = l1 :: l0 :: n :: (s.bindingBytes bs ++ tail)) :
    ((s.counted n).withBindings 0 bs).port.input = tail := by
  rw [(s.taken_counted n bs).2, h, ← s.length_bindingBytes bs, Nat.add_comm]
  exact List.drop_left

theorem State.scanRead_spec (s : State) (n : Byte) (bs : List (Fin 4 × Byte)) (ss se a : Byte) (hlen : bs.length ≤ 4) :
    s.ScanRead (s.scanRead n bs ss se a) bs ss a where
  frame := (congrArg State.frame ((s.counted n).withBindings_eq 0 bs) :)
  huff := (congrArg State.huff ((s.counted n).withBindings_eq 0 bs) :)
  qtLoaded := (congrArg State.qtLoaded ((s.counted n).withBindings_eq 0 bs) :)
  specStart := rfl
  succHigh := rfl
  bound k p hp := by
    have horder : (s.scanRead n bs ss se a).scan.order.get k = BitVec.ofNat 2 p.1.val :=
      State.withBindings_order (i := k.val) (by omega) hp (Nat.zero_add _).symm
    have hcomponent : Fin.ofNat 4 p.1.val = p.1 := Fin.ext (Nat.mod_eq_of_lt p.1.isLt)
    have hmem : p.1 ∈ bs.map Prod.fst := List.mem_map_of_mem (List.mem_of_getElem? hp)
    rw [horder, idx2_ofNat, hcomponent]
    exact (State.withBindings_get ..).trans (if_pos hmem)

theorem State.counted_legalParameters (s : State) (n : Byte) (bs : List (Fin 4 × Byte)) (ss se a : Byte) :
    ((s.counted n).withBindings 0 bs).LegalParameters ss se a ↔ s.LegalParameters ss se a := by
  have hframe : ((s.counted n).withBindings 0 bs).frame = s.frame := (congrArg State.frame ((s.counted n).withBindings_eq 0 bs) :)
  have hcfg : ((s.counted n).withBindings 0 bs).cfg = s.cfg := (congrArg State.cfg ((s.counted n).withBindings_eq 0 bs) :)
  unfold State.LegalParameters
  rw [hframe, hcfg]

/-- Right bindings and right parameters: the header goes on with the tables. -/
theorem startOfScan_tables {ss se a : Byte} {rest : List Byte}
    (hcount : 1 ≤ n.toNat ∧ n.toNat ≤ 4 ∧ n.toNat ≤ s.frame.imgN.toNat)
    (hL : (l1 ++ l0 : BitVec 16).toNat = 6 + 2 * n.toNat) (hbs : ∀ p ∈ bs, s.LegalBinding p) (hlen : bs.length = n.toNat)
    (hlegal : s.LegalParameters ss se a) (h : s.port.input = l1 :: l0 :: n :: (s.bindingBytes bs ++ ss :: se :: a :: rest)) :
    startOfScan s = (do
      forEach (scanPositions n.toNat) sosTables
      upd State.startScan : Seq Unit) (s.scanRead n bs ss (if s.frame.progressive then se else 63) a) := by
  have hframe : ((s.counted n).withBindings 0 bs).frame = s.frame := (congrArg State.frame ((s.counted n).withBindings_eq 0 bs) :)
  have hparameters := sosParameters_legal ((s.counted_legalParameters n bs ss se a).2 hlegal) (State.counted_input h)
  rw [hframe] at hparameters
  exact (startOfScan_bindings (r := 0) hcount hL hbs hlen h).trans (seq_bind_ok hparameters _)

theorem scanPositions_split (i r : Nat) :
    scanPositions (i + (r + 1)) = scanPositions i ++ Fin.ofNat 4 i :: (List.range' (i + 1) r).map (Fin.ofNat 4) := by
  unfold scanPositions
  rw [List.range_eq_range', List.range_eq_range', ← List.range'_append_1, List.map_append, Nat.zero_add, List.range'_succ,
    List.map_cons]

/-- The tables are there at the first scan positions. -/
theorem sosTables_upTo {w : State} {ss a : Byte} {i : Nat} (hw : s.ScanRead w bs ss a) (hi : i ≤ 4)
    (h : ∀ (j : Nat) (p : Fin 4 × Byte), j < i → bs[j]? = some p →
      s.HuffmanPresent ss a (lastBinding p.1 bs) ∧ s.QuantPresent p.1) (hfit : i ≤ bs.length) :
    ∀ k ∈ scanPositions i, sosTables k w = .ok () w := by
  intro k hk
  obtain ⟨j, hj, rfl⟩ := List.mem_map.1 hk
  have hj := List.mem_range.1 hj
  have hp : bs[j]? = some bs[j] := List.getElem?_eq_getElem (by omega)
  have hval : (Fin.ofNat 4 j).val = j := Nat.mod_eq_of_lt (by omega)
  obtain ⟨hhuffman, hquant⟩ := h j _ hj hp
  exact hw.sosTables_ok (hval.symm ▸ hp) hhuffman hquant

/-- Whatever the next binding raises is the header's error. -/
theorem startOfScan_nextBinding {e : ErrCode} {u : State} (hcount : 1 ≤ n.toNat ∧ n.toNat ≤ 4 ∧ n.toNat ≤ s.frame.imgN.toNat)
    (hL : (l1 ++ l0 : BitVec 16).toNat = 6 + 2 * n.toNat) (hbs : ∀ p ∈ bs, s.LegalBinding p) (hlt : bs.length < n.toNat)
    (h : s.port.input = l1 :: l0 :: n :: (s.bindingBytes bs ++ tail))
    (he : sosBinding (Fin.ofNat 4 bs.length) ((s.counted n).withBindings 0 bs) = .error (.raise e) u) :
    startOfScan s = .error (.raise e) u := by
  obtain ⟨r, hr⟩ := Nat.exists_eq_add_of_lt hlt
  rw [startOfScan_bindings (r := r + 1) hcount hL hbs hr.symm h, List.range'_succ, List.map_cons, forEach_cons]
  exact seq_bind_error (seq_bind_error he _) _

/-- Every table there: the scan starts. -/
theorem startOfScan_starts {ss se a : Byte} {rest : List Byte}
    (hcount : 1 ≤ n.toNat ∧ n.toNat ≤ 4 ∧ n.toNat ≤ s.frame.imgN.toNat)
    (hL : (l1 ++ l0 : BitVec 16).toNat = 6 + 2 * n.toNat) (hbs : ∀ p ∈ bs, s.LegalBinding p) (hlen : bs.length = n.toNat)
    (hlegal : s.LegalParameters ss se a) (h : s.port.input = l1 :: l0 :: n :: (s.bindingBytes bs ++ ss :: se :: a :: rest))
    (htables : ∀ p ∈ bs, s.HuffmanPresent ss a (lastBinding p.1 bs) ∧ s.QuantPresent p.1) :
    startOfScan s = .ok () (s.scanRead n bs ss (if s.frame.progressive then se else 63) a).startScan := by
  have hw := s.scanRead_spec n bs ss (if s.frame.progressive then se else 63) a (by omega)
  have hpresent := forEach_skip [] (sosTables_upTo hw (i := n.toNat) hcount.2.1
    (fun j p _ hp => htables p (List.mem_of_getElem? hp)) hlen.ge)
  rw [List.append_nil] at hpresent
  exact (startOfScan_tables hcount hL hbs hlen hlegal h).trans (seq_bind_ok hpresent _)

/-- The tables there for the bindings before: whatever the tables of the next one raise is the header's error. -/
theorem startOfScan_nextTables {ss se a : Byte} {rest : List Byte} {pre post : List (Fin 4 × Byte)} {p : Fin 4 × Byte} {e : ErrCode}
    (hcount : 1 ≤ n.toNat ∧ n.toNat ≤ 4 ∧ n.toNat ≤ s.frame.imgN.toNat)
    (hL : (l1 ++ l0 : BitVec 16).toNat = 6 + 2 * n.toNat) (hbs : ∀ p ∈ bs, s.LegalBinding p) (hlen : bs.length = n.toNat)
    (hlegal : s.LegalParameters ss se a) (h : s.port.input = l1 :: l0 :: n :: (s.bindingBytes bs ++ ss :: se :: a :: rest))
    (hsplit : bs = pre ++ p :: post) (hpre : ∀ q ∈ pre, s.HuffmanPresent ss a (lastBinding q.1 bs) ∧ s.QuantPresent q.1)
    (he : ∀ (w : State) (k : Fin 4), s.ScanRead w bs ss a → bs[k.val]? = some p → sosTables k w = .error (.raise e) w) :
    startOfScan s = .error (.raise e) (s.scanRead n bs ss (if s.frame.progressive then se else 63) a) := by
  have hw := s.scanRead_spec n bs ss (if s.frame.progressive then se else 63) a (by omega)
  have hsize : pre.length + (post.length + 1) = n.toNat := by
    rw [← hlen, hsplit, List.length_append, List.length_cons]
  have hp : bs[(Fin.ofNat 4 pre.length).val]? = some p := by
    rw [show (Fin.ofNat 4 pre.length).val = pre.length from Nat.mod_eq_of_lt (by omega), hsplit,
      List.getElem?_append_right (Nat.le_refl _), Nat.sub_self]
    rfl
  have hbefore (j : Nat) (q : Fin 4 × Byte) (hj : j < pre.length) (hq : bs[j]? = some q) : q ∈ pre := by
    rw [hsplit, List.getElem?_append_left hj] at hq
    exact List.mem_of_getElem? hq
  have hpresent := forEach_skip (Fin.ofNat 4 pre.length :: (List.range' (pre.length + 1) post.length).map (Fin.ofNat 4))
    (sosTables_upTo hw (i := pre.length) (by omega) (fun j q hj hq => hpre q (hbefore j q hj hq)) (by omega))
  rw [← scanPositions_split, hsize, forEach_cons] at hpresent
  exact (startOfScan_tables hcount hL hbs hlen hlegal h).trans
    (seq_bind_error (hpresent.trans (seq_bind_error (he _ _ hw hp) _)) _)

/-- The state with the scan registers and the component records written. -/
def State.scanned (s : State) (scan : Scan) (comp : Vector Comp 4) : State := { s with scan := scan, comp := comp }

theorem State.scanRead_eq (s : State) (n : Byte) (bs : List (Fin 4 × Byte)) (ss se a : Byte) :
    s.scanRead n bs ss se a = (s.consumed (6 + 2 * bs.length)).scanned
      ({ s.scan with scanN := n.truncate 3, order := (s.scanRead n bs ss se a).scan.order }.withParameters ss se a)
      (s.scanRead n bs ss se a).comp := by
  have hcount : 6 + 2 * bs.length = 3 + 2 * bs.length + 3 := by omega
  have hbindings : (s.counted n).withBindings 0 bs = (s.consumed (3 + 2 * bs.length)).scanned
      { s.scan with scanN := n.truncate 3, order := ((s.counted n).withBindings 0 bs).scan.order }
      ((s.counted n).withBindings 0 bs).comp := by
    refine ((s.counted n).withBindings_eq 0 bs).trans ?_
    rw [← State.consumed_consumed]
    rfl
  have hread (scan : Scan) (comp : Vector Comp 4) :
      (((s.consumed (3 + 2 * bs.length)).scanned scan comp).consumed 3).setScan (scan.withParameters ss se a) =
        (s.consumed (6 + 2 * bs.length)).scanned (scan.withParameters ss se a) comp := by
    rw [hcount, ← State.consumed_consumed s (3 + 2 * bs.length) 3]
    rfl
  refine (congrArg (fun v : State => (v.consumed 3).setScan (v.scan.withParameters ss se a)) hbindings).trans ?_
  exact hread _ _

/-- The start of the scan (R246, R271, R310). -/
theorem State.startScan_scanned (s : State) (scan : Scan) (comp : Vector Comp 4) :
    (s.scanned scan comp).startScan =
      { s with
        phase := .scan
        bits := { codeBuffer := 0, codeBits := 0, noMoreBits := false, marker := 0xFF }
        todo := if s.restartInterval = 0 then 0x7FFFFFFF else s.restartInterval.zeroExtend 32
        pos := { s.pos with mcuI := 0, mcuJ := 0, sk := 0, bcol := 0, brow := 0 }
        scan := { scan with eobRun := 0 }
        comp := comp.map fun c => { c with dcPred := 0 } } := by
  have htodo : (s.scanned scan comp).todoStart = if s.restartInterval = 0 then 0x7FFFFFFF else s.restartInterval.zeroExtend 32 :=
    ite_not ..
  rw [State.startScan, State.resetEntropy, htodo]
  rfl

end

theorem State.startScan_get (s : State) (c : Fin 4) : s.startScan.comp.get c = { s.comp.get c with dcPred := 0 } := by
  simp [State.startScan, State.resetEntropy, Vector.get_eq_getElem]

/-- Settles O31: the header's pieces in their order; the first wrong one is the error. -/
theorem startOfScanAccepted : Obligations.StartOfScanAccepted := by
  refine ⟨fun s bs ss se a rest hp h1 h4 hlive hbs hlegal htables h => ?_, fun s l1 l0 n bs tail hp h hbs => ?_⟩
  · have hn : (BitVec.ofNat 8 bs.length).toNat = bs.length := Nat.mod_eq_of_lt (by omega)
    have hn3 : ((BitVec.ofNat 8 bs.length).truncate 3 : BitVec 3) = BitVec.ofNat 3 bs.length := by
      interval_cases bs.length <;> rfl
    have hL : ((0x00 : Byte) ++ BitVec.ofNat 8 (6 + 2 * bs.length) : BitVec 16).toNat = 6 + 2 * (BitVec.ofNat 8 bs.length).toNat := by
      interval_cases bs.length <;> rfl
    have hstart := startOfScan_starts (s := s.unheld) (n := BitVec.ofNat 8 bs.length) (by rw [hn]; exact ⟨h1, h4, hlive⟩) hL hbs hn.symm
      hlegal h htables
    refine ⟨_, (runOp_frameMarker_frame hp).trans (runOp_ok hstart), ?_, fun j => ?_, fun c => ?_⟩
    · refine (congrArg State.startScan (State.scanRead_eq ..)).trans ((State.startScan_scanned ..).trans ?_)
      rw [hn3]
      rfl
    · cases hj : bs[j.val]? with
      | none => exact State.withBindings_order_outside (by omega) (.inr (by have := List.getElem?_eq_none_iff.1 hj; omega))
      | some p => exact State.withBindings_order (by omega) hj (Nat.zero_add _).symm
    · rw [State.startScan_get]
      have hget := (s.unheld.counted (BitVec.ofNat 8 bs.length)).withBindings_get 0 bs c
      refine (congrArg (fun r : Comp => { r with dcPred := 0 }) hget).trans ?_
      split <;> rfl
  · intro L counted k fails
    have hraise {k : Nat} {e : ErrCode} {u : State} (herror : startOfScan s.unheld = .error (.raise e) u) (htaken : s.Taken k u)
        (hkept : u.bits = s.bits ∧ u.todo = s.todo) : fails k e :=
      ⟨_, (runOp_frameMarker_frame hp).trans (runOp_raise herror), rfl, rfl, rfl, htaken.1, htaken.2, hkept.1, hkept.2⟩
    have hcount := sosCount_apply (s := s.unheld) h
    have htaken : s.Taken k ((s.unheld.counted n).withBindings 0 bs) := s.unheld.taken_counted n bs
    have hkept : ((s.unheld.counted n).withBindings 0 bs).bits = s.bits ∧ ((s.unheld.counted n).withBindings 0 bs).todo = s.todo := by
      rw [State.withBindings_eq]
      exact ⟨rfl, rfl⟩
    have hnext := State.counted_input (s := s.unheld) h
    refine ⟨fun hc => ?_, fun hc hL => ?_, fun id q rest hc hL hlt htail => ?_, fun ss se a rest hc hL hlen htail => ?_⟩
    · exact hraise (seq_bind_error (hcount.trans (if_pos hc)) _) ⟨rfl, rfl⟩ ⟨rfl, rfl⟩
    · exact hraise (seq_bind_error (hcount.trans ((if_neg (not_not.2 hc)).trans (if_pos hL))) _) ⟨rfl, rfl⟩ ⟨rfl, rfl⟩
    · rw [htail] at hnext
      have herror {e : ErrCode} {u : State} (he : sosBinding (Fin.ofNat 4 bs.length)
          ((s.unheld.counted n).withBindings 0 bs) = .error (.raise e) u) : startOfScan s.unheld = .error (.raise e) u :=
        startOfScan_nextBinding (s := s.unheld) hc hL hbs hlt h he
      have hfind : ((s.unheld.counted n).withBindings 0 bs).findComp id = s.findComp id :=
        (s.unheld.counted n).withBindings_findComp 0 bs id
      refine ⟨fun hnone => ?_, fun hsome hdc => ?_, fun hsome hdc hac => ?_⟩
      · exact hraise (herror (sosBinding_unknown (hfind.trans hnone) hnext)) (htaken.trans ⟨rfl, rfl⟩) hkept
      all_goals
        obtain ⟨w, hw⟩ := Option.ne_none_iff_exists'.1 hsome
        have hbinding := sosBinding_known (j := Fin.ofNat 4 bs.length) (hfind.trans hw) hnext
      · exact hraise (herror (hbinding.trans (if_pos hdc))) (htaken.trans ⟨rfl, rfl⟩) hkept
      · exact hraise (herror (hbinding.trans ((if_neg (by omega)).trans (if_pos hac)))) (htaken.trans ⟨rfl, rfl⟩) hkept
    · rw [htail] at hnext h
      refine ⟨fun hillegal => ?_, fun pre post p hlegal hsplit hpre => ?_⟩
      · have hillegal' : ¬((s.unheld.counted n).withBindings 0 bs).LegalParameters ss se a := fun hl =>
          hillegal ((s.unheld.counted_legalParameters n bs ss se a).1 hl)
        have hbindings := startOfScan_bindings (s := s.unheld) (r := 0) hc hL hbs hlen h
        exact hraise (hbindings.trans (seq_bind_error (sosParameters_illegal hillegal' hnext) _)) (htaken.trans ⟨rfl, rfl⟩) hkept
      · refine ⟨fun hhuffman => ?_, fun hhuffman hquant => ?_⟩
        · exact hraise (startOfScan_nextTables (s := s.unheld) hc hL hbs hlen hlegal h hsplit hpre
            fun w k hw hp => hw.sosTables_missingHuffman hp hhuffman) (htaken.trans ⟨rfl, rfl⟩) hkept
        · exact hraise (startOfScan_nextTables (s := s.unheld) hc hL hbs hlen hlegal h hsplit hpre
            fun w k hw hp => hw.sosTables_missingQuant hp hhuffman hquant) (htaken.trans ⟨rfl, rfl⟩) hkept

end Sys2Proof.Machine

/-! PROOFS of the statements about the block decoder (43_block_decoder.md): what the decoding of a block leaves unchanged; what the pieces
of a block's rule do on bits that are there, then the symbols and the block operations made of them; the finish; one step of SCAN. -/

namespace Sys2Proof.Machine

/-! ### The coefficient plane of a component (R78) -/

/-- Component `c` with the coefficient plane `m`. -/
def State.withCoef (c : Fin 4) (m : Mem 16) (s : State) : State := s.setComp c { s.comp.get c with coef := m }

/-- Coefficient `i` of block `b` of component `c` written. -/
def State.writeCoef (c : Fin 4) (b i : Nat) (v : BitVec 16) (s : State) : State :=
  s.withCoef c ((s.comp.get c).coef.write (64 * b + i) v)

theorem State.withCoef_get (s : State) (c : Fin 4) (m : Mem 16) (d : Fin 4) :
    (s.withCoef c m).comp.get d = if c = d then { s.comp.get c with coef := m } else s.comp.get d :=
  comp_set_get s c d _

theorem State.withCoef_get_same (s : State) (c : Fin 4) (m : Mem 16) :
    (s.withCoef c m).comp.get c = { s.comp.get c with coef := m } :=
  s.setComp_comp_same c _

theorem State.withCoef_withCoef (s : State) (c : Fin 4) (m m' : Mem 16) :
    (s.withCoef c m).withCoef c m' = s.withCoef c m' := by
  rw [State.withCoef, State.withCoef_get_same]
  exact s.setComp_setComp c _ _

theorem State.withCoef_self (s : State) (c : Fin 4) : s.withCoef c (s.comp.get c).coef = s := by
  have hset : s.comp.set c.val (s.comp.get c) c.isLt = s.comp := Vector.set_getElem_self c.isLt
  exact congrArg (fun v => { s with comp := v }) hset

/-- The plane of a state with a given plane is that plane. -/
theorem State.withCoef_own (s : State) (c : Fin 4) (m : Mem 16) :
    s.withCoef c m = s.withCoef c ((s.withCoef c m).comp.get c).coef := by
  rw [State.withCoef_get_same]

theorem coefWrite_ok {s : State} {c : Fin 4} {b i : Nat} (h : s.inCoef c b i = true) (v : BitVec 16) :
    coefWrite c b i v s = .ok () (s.writeCoef c b i v) := if_pos h

theorem State.inCoef_withCoef (s : State) (c : Fin 4) (m : Mem 16) (d : Fin 4) (b i : Nat) :
    (s.withCoef c m).inCoef d b i = s.inCoef d b i := by
  unfold State.inCoef
  rw [State.withCoef_get]
  split
  · subst d; rfl
  · rfl

/-- A written coefficient reads as the value written, every other one as before. -/
theorem State.coefficient_writeCoef {s : State} {c : Fin 4} {b i : Nat} (h : s.inCoef c b i = true) (v : BitVec 16) (d : Fin 4)
    (b' z : Nat) :
    (s.writeCoef c b i v).coefficient d b' z = if d = c ∧ b' = b ∧ z = i then some v else s.coefficient d b' z := by
  have hin := h
  simp only [State.inCoef, Bool.and_eq_true, decide_eq_true_eq] at hin
  rw [State.coefficient, State.writeCoef, State.inCoef_withCoef, State.withCoef_get]
  by_cases hhere : d = c ∧ b' = b ∧ z = i
  · obtain ⟨rfl, rfl, rfl⟩ := hhere
    rw [if_pos h, if_pos rfl, if_pos ⟨rfl, rfl, rfl⟩, Mem.read_write_same]
  · rw [if_neg hhere, State.coefficient]
    by_cases hz : s.inCoef d b' z = true
    · have hz64 := hz
      simp only [State.inCoef, Bool.and_eq_true, decide_eq_true_eq] at hz64
      rw [if_pos hz, if_pos hz]
      split
      · subst d
        exact Mem.read_write_other _ _ (by omega)
      · rfl
    · rw [if_neg hz, if_neg hz]

theorem coefRead_ok {s : State} {c : Fin 4} {b i : Nat} {v : BitVec 16} (h : s.coefficient c b i = some v) :
    coefRead c b i s = .ok v s := by
  unfold State.coefficient at h
  split at h
  · rename_i hin
    rw [coefRead, if_pos hin, h]
  · cases h

theorem State.inCoef_of_coefficient {s : State} {c : Fin 4} {b i : Nat} {v : BitVec 16} (h : s.coefficient c b i = some v) :
    s.inCoef c b i = true := by
  unfold State.coefficient at h
  split at h
  · assumption
  · cases h

/-- Component `c` with the predictor `v`. -/
def State.withDc (c : Fin 4) (v : BitVec 32) (s : State) : State := s.setComp c { s.comp.get c with dcPred := v }

theorem State.withDc_get (s : State) (c : Fin 4) (v : BitVec 32) (d : Fin 4) :
    (s.withDc c v).comp.get d = { s.comp.get d with dcPred := if d = c then v else (s.comp.get d).dcPred } := by
  rw [State.withDc, State.setComp_comp, comp_set_get]
  by_cases hd : d = c
  · subst hd
    rw [if_pos rfl, if_pos rfl]
  · rw [if_neg (Ne.symm hd), if_neg hd]

/-- A predictor is no coefficient. -/
theorem State.coefficient_withDc (s : State) (c : Fin 4) (v : BitVec 32) (d : Fin 4) (b z : Nat) :
    (s.withDc c v).coefficient d b z = s.coefficient d b z := by
  refine State.coefficient_congr ?_ ?_ ?_ ?_ b z
  · rfl
  all_goals rw [State.withDc_get]

/-! ### What the decoding of a block leaves unchanged -/

/-- The part does not show what the bit machine writes: its registers and the input (41_bit_entropy.md). -/
structure IgnoresBits {γ : Type} (π : State → γ) : Prop where
  input : IgnoresInput π
  bits : ∀ (s : State) b, π (s.setBits b) = π s

section
variable {γ : Type} {π : State → γ} (h : IgnoresBits π)
include h

theorem IgnoresBits.keeps_afterFF : Keeps π afterFF :=
  keeps_bind (keeps_look _) fun _ => keeps_bind (keeps_readPastFF h.input _) fun _ => keeps_ite
    (keeps_bind (keeps_upd fun _ => h.bits _ _) fun _ => keeps_pure _)
    (keeps_bind (keeps_upd fun _ => h.bits _ _) fun _ => keeps_pure _)

theorem IgnoresBits.keeps_fillRound : Keeps π fillRound :=
  keeps_bind (keeps_look _) fun _ => keeps_ite
    (keeps_bind (keeps_upd fun _ => h.bits _ _) fun _ => keeps_pure _)
    (keeps_bind (keeps_readU8 h.input) fun _ => keeps_ite h.keeps_afterFF <|
      keeps_bind (keeps_upd fun _ => h.bits _ _) fun _ => keeps_pure _)

theorem IgnoresBits.keeps_fillLoop : (n : Nat) → Keeps π (fillLoop n)
  | 0 => keeps_pure _
  | n + 1 => keeps_bind h.keeps_fillRound fun _ => keeps_bind (keeps_look _) fun _ =>
      keeps_ite (IgnoresBits.keeps_fillLoop n) (keeps_pure _)

theorem IgnoresBits.keeps_fillBits : Keeps π fillBits :=
  keeps_bind (keeps_look _) fun _ => keeps_ite (keeps_modelFault _) (h.keeps_fillLoop _)

theorem IgnoresBits.keeps_fillBelow (n : Nat) : Keeps π (fillBelow n) :=
  keeps_bind (keeps_look _) fun _ => keeps_onlyIf _ h.keeps_fillBits

theorem IgnoresBits.keeps_consume (n : Nat) : Keeps π (consume n) := keeps_upd fun _ => h.bits _ _

theorem IgnoresBits.keeps_takeCode (n : Nat) : Keeps π (takeCode n) :=
  keeps_bind (keeps_look _) fun _ => keeps_bind (keeps_check _ _) fun _ => h.keeps_consume _

theorem IgnoresBits.keeps_decodeSlow (T : HuffTable) : Keeps π (decodeSlow T) := by
  refine keeps_bind (keeps_look _) fun temp => ?_
  generalize slowLength T temp _ = k
  exact keeps_bind (keeps_check _ _) fun _ => keeps_bind (keeps_look _) fun _ => keeps_bind (keeps_check _ _) fun _ =>
    keeps_bind (keeps_look _) fun _ => keeps_bind (keeps_check _ _) fun _ => keeps_bind (h.keeps_consume _) fun _ => keeps_pure _

theorem IgnoresBits.keeps_decodeHuffman (tc : Fin 2) (th : Fin 4) : Keeps π (decodeHuffman tc th) :=
  keeps_bind (h.keeps_fillBelow _) fun _ => keeps_bind (keeps_loadedHuff _ _) fun _ => keeps_bind (keeps_look _) fun _ =>
    keeps_ite (keeps_bind (h.keeps_takeCode _) fun _ => keeps_pure _) (h.keeps_decodeSlow _)

theorem IgnoresBits.keeps_rawBits {α : Type} (n : Nat) (f : Nat → α) (d : α) : Keeps π (rawBits n f d) :=
  keeps_bind (h.keeps_fillBelow n) fun _ => keeps_bind (keeps_look _) fun _ => keeps_ite (keeps_pure _) <|
    keeps_bind (keeps_look _) fun _ => keeps_bind (h.keeps_consume n) fun _ => keeps_pure _

end

/-- `s` with everything that a bit operation may write taken from `u`. -/
def State.bitOpFrom (s u : State) : State :=
  { s with
    phase := u.phase, errCode := u.errCode, errClass := u.errClass, ctl := u.ctl, bytePos := u.bytePos, bits := u.bits
    port := { s.port with input := u.port.input }, lastMarker := u.lastMarker, lastMarkerValid := u.lastMarkerValid
    unit := { s.unit with result := u.unit.result } }

theorem State.eq_bitOpFrom {s t : State} (h : t.bitOpFrom .reset = s.bitOpFrom .reset) : t = s.bitOpFrom t :=
  congrArg (fun u => u.bitOpFrom t) h

/-- What a bit operation leaves unchanged, whatever it answers. -/
theorem exec_bitOp_frame {s t : State} {i : Instr}
    (hi : i = .fill ∨ i = .decodeHuff ∨ i = .getBits ∨ i = .getBit ∨ i = .receiveExtend ∨ i = .getMarker ∨ i = .seekMarker)
    (h : exec i s = .next t) : t = s.bitOpFrom t := by
  have hbits : IgnoresBits fun s => s.bitOpFrom .reset := ⟨fun _ _ _ => rfl, fun _ _ => rfl⟩
  have hrun {m : Seq Unit} (hm : Keeps (fun s => s.bitOpFrom .reset) m) (hr : runOp m s = .next t) : t = s.bitOpFrom t :=
    State.eq_bitOpFrom (hm.runOp (fun _ => rfl) (fun _ _ => rfl) (fun _ _ => rfl) hr)
  have hunit {α : Type} {m : Seq α} {f : α → BitVec 32} (hm : Keeps (fun s => s.bitOpFrom .reset) m)
      (hr : runUnit m f s = .next t) : t = s.bitOpFrom t :=
    hrun (m := m >>= fun v => upd fun t => t.setUnit { t.unit with result := f v })
      (keeps_bind hm fun _ => keeps_upd fun _ => rfl) hr
  rcases hi with rfl | rfl | rfl | rfl | rfl | rfl | rfl
  · exact hrun hbits.keeps_fillBits h
  · exact hunit (hbits.keeps_decodeHuffman _ _) h
  · exact hunit (hbits.keeps_rawBits _ _ _) h
  · exact hunit (hbits.keeps_rawBits _ _ _) h
  · exact hunit (hbits.keeps_rawBits _ _ _) h
  · exact hunit (keeps_getMarker hbits.input (fun _ _ => rfl) fun _ _ => rfl) h
  · exact hrun (keeps_bind (keeps_look _) fun _ => keeps_seekLoop hbits.input (fun _ _ => rfl) _) h

/-- `s` with everything that a symbol or a block operation may write taken from `u`. -/
def State.blockFrom (s u : State) : State :=
  { s with
    phase := u.phase, errCode := u.errCode, errClass := u.errClass, ctl := u.ctl, bytePos := u.bytePos, bits := u.bits
    port := { s.port with input := u.port.input }, scan := { s.scan with eobRun := u.scan.eobRun }
    blk := { u.blk with px := s.blk.px }, comp := u.comp }

/-- `c` with what the decoding of its blocks may write taken from `d`. -/
def Comp.blockFrom (c d : Comp) : Comp := { c with dcPred := d.dcPred, coef := d.coef }

theorem State.eq_blockFrom {s t : State} (h : t.blockFrom .reset = s.blockFrom .reset) : t = s.blockFrom t :=
  congrArg (fun u => u.blockFrom t) h

theorem Comp.eq_blockFrom {c d : Comp} (h : d.blockFrom .empty = c.blockFrom .empty) : d = c.blockFrom d :=
  congrArg (fun e => e.blockFrom d) h

/-- `t` is reached from `s` by the decoding of the block at the scan position (43_block_decoder.md). -/
structure State.Decodes (s t : State) : Prop where
  rest : t.blockFrom .reset = s.blockFrom .reset
  comp : ∀ c, (t.comp.get c).blockFrom .empty = (s.comp.get c).blockFrom .empty
  dcPred : ∀ c, c ≠ s.blockComp → (t.comp.get c).dcPred = (s.comp.get c).dcPred
  coefficient : ∀ c b z, ¬(c = s.blockComp ∧ b = s.blockNum) → t.coefficient c b z = s.coefficient c b z

namespace State.Decodes

variable {s t u : State}

theorem refl (s : State) : s.Decodes s := ⟨rfl, fun _ => rfl, fun _ _ => rfl, fun _ _ _ _ => rfl⟩

theorem blockComp_eq (h : s.Decodes t) : t.blockComp = s.blockComp := (congrArg State.blockComp h.rest :)

theorem get_eq (h : s.Decodes t) (c : Fin 4) : t.comp.get c = (s.comp.get c).blockFrom (t.comp.get c) :=
  Comp.eq_blockFrom (h.comp c)

theorem eq_blockFrom (h : s.Decodes t) : t = s.blockFrom t := State.eq_blockFrom h.rest

theorem blockCol_eq (h : s.Decodes t) : t.blockCol = s.blockCol := by
  have hpos : t.pos = s.pos := (congrArg State.pos h.rest :)
  have hsingle : t.single = s.single := (congrArg State.single h.rest :)
  rw [State.blockCol, hpos, hsingle, h.blockComp_eq, h.get_eq]
  rfl

theorem blockRow_eq (h : s.Decodes t) : t.blockRow = s.blockRow := by
  have hpos : t.pos = s.pos := (congrArg State.pos h.rest :)
  have hsingle : t.single = s.single := (congrArg State.single h.rest :)
  rw [State.blockRow, hpos, hsingle, h.blockComp_eq, h.get_eq]
  rfl

theorem blockNum_eq (h : s.Decodes t) : t.blockNum = s.blockNum := by
  rw [State.blockNum, h.blockCol_eq, h.blockRow_eq, h.blockComp_eq, h.get_eq]
  rfl

theorem trans (h : s.Decodes t) (h' : t.Decodes u) : s.Decodes u := by
  refine ⟨h'.rest.trans h.rest, fun c => (h'.comp c).trans (h.comp c), fun c hc => ?_, fun c b z hout => ?_⟩
  · exact (h'.dcPred c (by rwa [h.blockComp_eq])).trans (h.dcPred c hc)
  · exact (h'.coefficient c b z (by rwa [h.blockComp_eq, h.blockNum_eq])).trans (h.coefficient c b z hout)

/-- An update of no component record. -/
theorem of_comp (hrest : t.blockFrom .reset = s.blockFrom .reset) (hcomp : t.comp = s.comp) : s.Decodes t := by
  have halloc : t.planesAllocated = s.planesAllocated := (congrArg State.planesAllocated hrest :)
  refine ⟨hrest, fun c => by rw [hcomp], fun c _ => by rw [hcomp], fun c b z _ => ?_⟩
  exact State.coefficient_congr halloc (by rw [hcomp]) (by rw [hcomp]) (by rw [hcomp]) b z

/-- The predictor of the block's component written. -/
theorem of_withDc (s : State) (v : BitVec 32) : s.Decodes (s.withDc s.blockComp v) := by
  refine ⟨rfl, fun c => ?_, fun c hc => ?_, fun c b z _ => s.coefficient_withDc _ v c b z⟩
  · rw [State.withDc_get]
    rfl
  · rw [State.withDc_get]
    exact if_neg hc

/-- A coefficient of the block written. -/
theorem of_writeCoef {i : Nat} (h : s.inCoef s.blockComp s.blockNum i = true) (v : BitVec 16) :
    s.Decodes (s.writeCoef s.blockComp s.blockNum i v) := by
  refine ⟨rfl, fun c => ?_, fun c hc => ?_, fun c b z hout => ?_⟩
  · rw [State.writeCoef, State.withCoef_get]
    split <;> simp_all [Comp.blockFrom]
  · rw [State.writeCoef, State.withCoef_get, if_neg hc.symm]
  · rw [State.coefficient_writeCoef h, if_neg fun hh => hout ⟨hh.1, hh.2.1⟩]

theorem takeError (s : State) (e : ErrCode) : s.Decodes (s.takeError e) := .of_comp rfl rfl
theorem unheld (s : State) : s.Decodes s.unheld := .of_comp rfl rfl
theorem hold (s : State) (n : BitVec 32) : s.Decodes (s.hold n) := .of_comp rfl rfl

end State.Decodes

/-- A piece that decodes the block at the scan position of `s`, wherever it stops. -/
def Decoding {α : Type} (s : State) (m : Seq α) : Prop := Triple s.Decodes m (fun _ => s.Decodes) (fun _ => s.Decodes)

section
variable {α β : Type} {s : State} {m : Seq α}

theorem decoding_pure (a : α) : Decoding s (pure a) := triple_pure fun _ h => h
theorem decoding_look (f : State → α) : Decoding s (look f) := triple_look fun _ h => h
theorem decoding_raise (e : ErrCode) : Decoding s (raise e : Seq α) := triple_raise fun _ h => h
theorem decoding_check (c : Bool) (e : ErrCode) : Decoding s (check c e) := triple_check (fun _ _ h => h) (fun _ _ h => h)

theorem decoding_bind {f : α → Seq β} (hm : Decoding s m) (hf : ∀ a, Decoding s (f a)) : Decoding s (m >>= f) :=
  triple_bind hm hf

theorem decoding_get {f : State → Seq α} (hf : ∀ a, s.Decodes a → Decoding s (f a)) : Decoding s (get >>= f) :=
  fun u hu => hf u hu u hu

theorem decoding_ite {c : Prop} [Decidable c] {n : Seq α} (hm : Decoding s m) (hn : Decoding s n) :
    Decoding s (if c then m else n) :=
  triple_ite (fun _ => hm) (fun _ => hn)

theorem decoding_onlyIf {n : Seq Unit} (c : Bool) (hn : Decoding s n) : Decoding s (onlyIf c n) :=
  triple_onlyIf (fun _ _ h => h) (fun _ => hn)

theorem decoding_forEach (xs : List α) {f : α → Seq Unit} (h : ∀ x, Decoding s (f x)) : Decoding s (forEach xs f) :=
  triple_forEach fun x _ => h x

theorem decoding_upd {f : State → State} (h : ∀ u : State, u.Decodes (f u)) : Decoding s (upd f) :=
  triple_upd fun u hu => hu.trans (h u)

/-- A piece that keeps all but the bit machine, the run and the block registers. -/
theorem decoding_of_keeps (h : Keeps (fun u => (u.blockFrom .reset, u.comp)) m) : Decoding s m := by
  intro u hu
  have hm := h _ u rfl
  have hof {t : State} (ht : (t.blockFrom .reset, t.comp) = (u.blockFrom .reset, u.comp)) : s.Decodes t :=
    hu.trans (.of_comp (congrArg Prod.fst ht) (congrArg Prod.snd ht))
  cases hmu : m u with
  | ok a t => rw [hmu] at hm; exact hof hm
  | error e t => rw [hmu] at hm; exact hof hm

theorem decoding_coefWrite {c : Fin 4} {b : Nat} (hc : c = s.blockComp) (hb : b = s.blockNum) (i : Nat) (v : BitVec 16) :
    Decoding s (coefWrite c b i v) := by
  intro u hu
  obtain rfl : c = u.blockComp := hc.trans hu.blockComp_eq.symm
  obtain rfl : b = u.blockNum := hb.trans hu.blockNum_eq.symm
  rcases coefWrite_cases u.blockComp u.blockNum i v u with ⟨hin, e⟩ | ⟨-, e⟩ <;> rw [e]
  · exact hu.trans (.of_writeCoef hin v)
  · exact hu

end

theorem ignoresBits_block : IgnoresBits fun u => (u.blockFrom .reset, u.comp) := ⟨fun _ _ _ => rfl, fun _ _ => rfl⟩

section
variable (s : State)

theorem decoding_fillBelow (n : Nat) : Decoding s (fillBelow n) := decoding_of_keeps (ignoresBits_block.keeps_fillBelow n)
theorem decoding_takeCode (n : Nat) : Decoding s (takeCode n) := decoding_of_keeps (ignoresBits_block.keeps_takeCode n)

theorem decoding_rawBits {α : Type} (n : Nat) (f : Nat → α) (d : α) : Decoding s (rawBits n f d) :=
  decoding_of_keeps (ignoresBits_block.keeps_rawBits n f d)

theorem decoding_decodeHuffman (tc : Fin 2) (th : Fin 4) : Decoding s (decodeHuffman tc th) :=
  decoding_of_keeps (ignoresBits_block.keeps_decodeHuffman tc th)

theorem decoding_peekFastAc (th : Fin 4) : Decoding s (peekFastAc th) := decoding_of_keeps (keeps_peekFastAc th)
theorem decoding_loadedQt (q : Fin 4) : Decoding s (loadedQt q) := decoding_of_keeps (keeps_loadedQt q)
theorem decoding_coefRead (c : Fin 4) (b i : Nat) : Decoding s (coefRead c b i) := decoding_of_keeps (keeps_coefRead c b i)
theorem decoding_blockCoef (z : Fin 64) : Decoding s (blockCoef z) := decoding_of_keeps (keeps_blockCoef z)

theorem decoding_upd_rest {f : State → State} (hrest : ∀ u : State, (f u).blockFrom .reset = u.blockFrom .reset)
    (hcomp : ∀ u : State, (f u).comp = u.comp) : Decoding s (upd f) :=
  decoding_upd fun u => .of_comp (hrest u) (hcomp u)

theorem decoding_setK (f : Nat → Nat) : Decoding s (setK f) := decoding_upd_rest s (fun _ => rfl) (fun _ => rfl)
theorem decoding_acSkip16 : Decoding s acSkip16 := decoding_setK s _
theorem decoding_endBlock : Decoding s endBlock := decoding_upd_rest s (fun _ => rfl) (fun _ => rfl)
theorem decoding_startBand : Decoding s startBand := decoding_upd_rest s (fun _ => rfl) (fun _ => rfl)

theorem decoding_putData (z : Fin 64) (v : BitVec 16) : Decoding s (putData z v) :=
  decoding_upd_rest s (fun _ => rfl) (fun _ => rfl)

theorem decoding_setEobRun (f : BitVec 32 → BitVec 32) : Decoding s (setEobRun f) :=
  decoding_upd_rest s (fun _ => rfl) (fun _ => rfl)

theorem decoding_advanceRun (r : Nat) : Decoding s (advanceRun r) :=
  decoding_bind (decoding_setK s _) fun _ => decoding_bind (decoding_look _) fun _ => decoding_bind (decoding_setK s _) fun _ =>
    decoding_pure _

theorem decoding_putBlockCoef (z : Fin 64) (v : Int) : Decoding s (putBlockCoef z v) :=
  decoding_get fun _ ha => decoding_coefWrite ha.blockComp_eq ha.blockNum_eq _ _

theorem decoding_dcPredict (t : Nat) : Decoding s (dcPredict t) :=
  decoding_bind (decoding_ite (decoding_pure _) (decoding_rawBits s _ _ _)) fun _ => decoding_upd fun u => .of_withDc u _

theorem decoding_dcBaseline (t : Nat) : Decoding s (dcBaseline t) :=
  decoding_bind (decoding_dcPredict s t) fun _ => decoding_bind (decoding_look _) fun _ =>
    decoding_bind (decoding_loadedQt s _) fun _ => decoding_bind (decoding_upd_rest s (fun _ => rfl) fun _ => rfl) fun _ =>
    decoding_bind (decoding_look _) fun _ => decoding_putData s _ _

theorem decoding_dcFirstSymbol (t : Nat) : Decoding s (dcFirstSymbol t) :=
  decoding_bind (decoding_dcPredict s t) fun _ => decoding_get fun _ ha => decoding_coefWrite ha.blockComp_eq ha.blockNum_eq _ _

theorem decoding_dcCategory : Decoding s dcCategory :=
  decoding_bind (decoding_look _) fun _ => decoding_bind (decoding_decodeHuffman s _ _) fun _ =>
    decoding_bind (decoding_check _ _) fun _ => decoding_pure _

theorem decoding_dcRefineWith {readBit : Seq Bool} (h : Decoding s readBit) : Decoding s (dcRefineWith readBit) :=
  decoding_get fun _ ha => decoding_bind (decoding_coefRead s _ _ _) fun _ => decoding_bind h fun _ =>
    decoding_onlyIf _ (decoding_coefWrite ha.blockComp_eq ha.blockNum_eq _ _)

theorem decoding_putCoef (z : Fin 64) (v : Int) : Decoding s (putCoef z v) :=
  decoding_bind (decoding_look _) fun _ => decoding_bind (decoding_loadedQt s _) fun _ => decoding_putData s _ _

theorem decoding_acCoef (r c : Nat) : Decoding s (acCoef r c) :=
  decoding_bind (decoding_advanceRun s _) fun _ => decoding_bind (decoding_rawBits s _ _ _) fun _ => decoding_putCoef s _ _

theorem decoding_acSymbol (rs : Byte) : Decoding s (acSymbol rs) :=
  decoding_ite (decoding_ite (decoding_acSkip16 s) (decoding_endBlock s)) (decoding_acCoef s _ _)

theorem decoding_fastAdvance (e : BitVec 16) : Decoding s (fastAdvance e) :=
  decoding_bind (decoding_setK s _) fun _ => decoding_bind (decoding_takeCode s _) fun _ => decoding_advanceRun s _

theorem decoding_acRound : Decoding s acRound :=
  decoding_bind (decoding_fillBelow s _) fun _ => decoding_bind (decoding_look _) fun _ =>
    decoding_bind (decoding_peekFastAc s _) fun _ => decoding_ite
      (decoding_bind (decoding_fastAdvance s _) fun _ => decoding_putCoef s _ _)
      (decoding_bind (decoding_decodeHuffman s _ _) fun _ => decoding_acSymbol s _)

theorem decoding_acLoop : (n : Nat) → Decoding s (acLoop n)
  | 0 => decoding_pure _
  | n + 1 => decoding_bind (decoding_acRound s) fun _ => decoding_bind (decoding_look _) fun _ =>
      decoding_ite (decoding_pure _) (decoding_acLoop n)

theorem decoding_blkBaseline : Decoding s blkBaseline :=
  decoding_bind (decoding_fillBelow s _) fun _ => decoding_bind (decoding_dcCategory s) fun _ =>
    decoding_bind (decoding_dcBaseline s _) fun _ => decoding_acLoop s _

theorem decoding_blkDcFirst : Decoding s blkDcFirst :=
  decoding_get fun _ ha => decoding_bind (decoding_check _ _) fun _ => decoding_bind (decoding_fillBelow s _) fun _ =>
    decoding_bind (decoding_forEach _ fun _ => decoding_coefWrite ha.blockComp_eq ha.blockNum_eq _ _) fun _ =>
    decoding_bind (decoding_dcCategory s) fun _ => decoding_dcFirstSymbol s _

theorem decoding_blkDcRefine : Decoding s blkDcRefine :=
  decoding_get fun _ _ => decoding_bind (decoding_check _ _) fun _ => decoding_bind (decoding_fillBelow s _) fun _ =>
    decoding_dcRefineWith s (decoding_rawBits s _ _ _)

theorem decoding_acpCoef (r c : Nat) : Decoding s (acpCoef r c) :=
  decoding_bind (decoding_advanceRun s _) fun _ => decoding_bind (decoding_rawBits s _ _ _) fun _ =>
    decoding_bind (decoding_look _) fun _ => decoding_putBlockCoef s _ _

theorem decoding_addEobBits (r : Nat) : Decoding s (addEobBits r) :=
  decoding_ite (decoding_pure _) (decoding_bind (decoding_rawBits s _ _ _) fun _ => decoding_setEobRun s _)

theorem decoding_acpEobrun (r : Nat) : Decoding s (acpEobrun r) :=
  decoding_bind (decoding_setEobRun s _) fun _ => decoding_bind (decoding_addEobBits s _) fun _ =>
    decoding_bind (decoding_setEobRun s _) fun _ => decoding_endBlock s

theorem decoding_acpSymbol (rs : Byte) : Decoding s (acpSymbol rs) :=
  decoding_ite (decoding_ite (decoding_acSkip16 s) (decoding_acpEobrun s _)) (decoding_acpCoef s _ _)

theorem decoding_acpRound : Decoding s acpRound :=
  decoding_bind (decoding_fillBelow s _) fun _ => decoding_bind (decoding_look _) fun _ =>
    decoding_bind (decoding_peekFastAc s _) fun _ => decoding_ite
      (decoding_bind (decoding_fastAdvance s _) fun _ => decoding_bind (decoding_look _) fun _ => decoding_putBlockCoef s _ _)
      (decoding_bind (decoding_decodeHuffman s _ _) fun _ => decoding_acpSymbol s _)

theorem decoding_acpLoop : (n : Nat) → Decoding s (acpLoop n)
  | 0 => decoding_pure _
  | n + 1 => decoding_bind (decoding_acpRound s) fun _ => decoding_bind (decoding_look _) fun _ =>
      decoding_ite (decoding_pure _) (decoding_acpLoop n)

theorem decoding_blkAcFirst : Decoding s blkAcFirst :=
  decoding_bind (decoding_look _) fun _ => decoding_ite (decoding_setEobRun s _) <|
    decoding_bind (decoding_startBand s) fun _ => decoding_acpLoop s _

theorem decoding_refineBit (z : Fin 64) : Decoding s (refineBit z) :=
  decoding_get fun _ ha => decoding_bind (decoding_coefRead s _ _ _) fun _ => decoding_bind (decoding_rawBits s _ _ _) fun _ =>
    decoding_onlyIf _ (decoding_coefWrite ha.blockComp_eq ha.blockNum_eq _ _)

theorem decoding_advance (v : Int) : (n r : Nat) → Decoding s (advance v n r)
  | 0, _ => decoding_pure _
  | n + 1, r => decoding_bind (decoding_look _) fun _ => decoding_ite (decoding_pure _) <|
      decoding_bind (decoding_advanceRun s _) fun _ => decoding_bind (decoding_blockCoef s _) fun _ => decoding_ite
        (decoding_bind (decoding_refineBit s _) fun _ => decoding_advance v n r)
        (decoding_ite (decoding_putBlockCoef s _ _) (decoding_advance v n (r - 1)))

theorem decoding_acrCoef (r : Nat) : Decoding s (acrCoef r) :=
  decoding_bind (decoding_rawBits s _ _ _) fun _ => decoding_bind (decoding_look _) fun _ => decoding_advance s _ _ _

theorem decoding_acrEobrun (r : Nat) : Decoding s (acrEobrun r) :=
  decoding_bind (decoding_setEobRun s _) fun _ => decoding_bind (decoding_addEobBits s _) fun _ => decoding_advance s _ _ _

theorem decoding_acrSymbol (rs : Byte) : Decoding s (acrSymbol rs) :=
  decoding_ite (decoding_ite (decoding_advance s _ _ _) (decoding_acrEobrun s _))
    (decoding_ite (decoding_acrCoef s _) (decoding_raise _))

theorem decoding_acrRound : Decoding s acrRound :=
  decoding_bind (decoding_look _) fun _ => decoding_bind (decoding_decodeHuffman s _ _) fun _ => decoding_acrSymbol s _

theorem decoding_acrLoop : (n : Nat) → Decoding s (acrLoop n)
  | 0 => decoding_pure _
  | n + 1 => decoding_bind (decoding_acrRound s) fun _ => decoding_bind (decoding_look _) fun _ =>
      decoding_ite (decoding_pure _) (decoding_acrLoop n)

theorem decoding_refineBand : (ks : List Nat) → Decoding s (refineBand ks)
  | [] => decoding_pure _
  | _ :: ks => decoding_bind (decoding_blockCoef s _) fun _ => decoding_bind (decoding_onlyIf _ (decoding_refineBit s _)) fun _ =>
      decoding_refineBand ks

theorem decoding_blkAcRefine : Decoding s blkAcRefine :=
  decoding_bind (decoding_look _) fun _ => decoding_ite
    (decoding_bind (decoding_setEobRun s _) fun _ => decoding_bind (decoding_look _) fun _ => decoding_refineBand s _)
    (decoding_bind (decoding_startBand s) fun _ => decoding_acrLoop s _)

end

/-- What a rule that decodes the block at the scan position answers. -/
theorem Decoding.runOp {s t : State} {m : Seq Unit} (hm : Decoding s m) (h : runOp m s = .next t) : s.Decodes t := by
  rcases Triple.runOp hm (.unheld s) h with ht | ⟨e, u, hu, rfl⟩ | ⟨n, rfl⟩
  · exact ht
  · exact hu.trans (.takeError u e)
  · exact .hold s n

/-- Every entropy symbol but MAG, and every block operation, decodes the block at the scan position. -/
theorem exec_decodes {s t : State} {i : Instr}
    (hi : (∃ c, i = .dcDiff c) ∨ (∃ r c, i = .acCoef r c) ∨ i = .acZrl ∨ (∃ r, i = .acEob r) ∨ (∃ r c, i = .acpCoef r c) ∨
      i = .acpZrl ∨ (∃ r, i = .acpEobrun r) ∨ (∃ r, i = .acrCoef r) ∨ i = .acrZrl ∨ (∃ r, i = .acrEobrun r) ∨
      (∃ r c, i = .acrBad r c) ∨ (∃ b, i = .dcRefineBit b) ∨ i = .blkBaseline ∨ i = .blkDcFirst ∨ i = .blkDcRefine ∨
      i = .blkAcFirst ∨ i = .blkAcRefine)
    (h : exec i s = .next t) : s.Decodes t := by
  rcases hi with ⟨c, rfl⟩ | ⟨r, c, rfl⟩ | rfl | ⟨r, rfl⟩ | ⟨r, c, rfl⟩ | rfl | ⟨r, rfl⟩ | ⟨r, rfl⟩ | rfl | ⟨r, rfl⟩ | ⟨r, c, rfl⟩ |
    ⟨b, rfl⟩ | rfl | rfl | rfl | rfl | rfl
  · exact (decoding_ite (decoding_dcFirstSymbol s _) (decoding_dcBaseline s _)).runOp h
  · exact (decoding_acCoef s _ _).runOp h
  · exact (decoding_acSkip16 s).runOp h
  · exact (decoding_endBlock s).runOp h
  · exact (decoding_acpCoef s _ _).runOp h
  · exact (decoding_acSkip16 s).runOp h
  · exact (decoding_acpEobrun s _).runOp h
  · exact (decoding_acrCoef s _).runOp h
  · exact (decoding_advance s _ _ _).runOp h
  · exact (decoding_acrEobrun s _).runOp h
  · exact (decoding_raise _).runOp h
  · exact (decoding_dcRefineWith s (decoding_pure _)).runOp h
  · exact (decoding_blkBaseline s).runOp h
  · exact (decoding_blkDcFirst s).runOp h
  · exact (decoding_blkDcRefine s).runOp h
  · exact (decoding_blkAcFirst s).runOp h
  · exact (decoding_blkAcRefine s).runOp h

/-- Settles O53: the bit operations write only their own registers, and every other piece decodes the block at the scan position. -/
theorem entropyFrames : Obligations.EntropyFrames := by
  refine ⟨fun s t i hi h => exec_bitOp_frame hi h, fun s t i hi h => ?_⟩
  have hd := exec_decodes hi h
  have halloc : t.planesAllocated = s.planesAllocated := (congrArg State.planesAllocated hd.rest :)
  refine ⟨hd.eq_blockFrom, fun c => ?_, hd.coefficient, fun c => State.sample_congr halloc ?_ ?_ ?_⟩
  · have hc := hd.get_eq c
    by_cases hb : c = s.blockComp
    · rw [if_pos hb]
      exact hc
    · rw [if_neg hb, ← hd.dcPred c hb]
      exact hc
  all_goals
    rw [hd.get_eq]
    rfl

/-! ### Bits taken one field after the other (R181) -/

namespace BitMachine

@[simp] theorem consume_zero (b : BitMachine) : b.consume 0 = b := by
  simp [consume]

theorem consume_consume (b : BitMachine) (m n : Nat) : (b.consume m).consume n = b.consume (m + n) := by
  simp only [consume, BitVec.shiftLeft_add, BitVec.ofNat_add, BitVec.sub_sub]

end BitMachine

theorem at?_val {α : Type} {n : Nat} (v : Vector α n) (i : Fin n) (d : α) : at? v i.val d = v.get i := dif_pos i.isLt

/-- The value of a magnitude field of a category (R115). -/
theorem magnitude_category (c : BitVec 4) (v : Nat) :
    magnitude c.toNat v =
      if c = 0 then 0 else if 2 ^ (c.toNat - 1) ≤ v then (v : Int) else (v : Int) - (2 ^ c.toNat - 1) := by
  by_cases hc : c = 0
  · subst hc
    rfl
  · rw [if_neg hc]
    exact magnitude_of_ne_zero (BitVec.toNat_ne.1 hc) v

/-- The coefficient a value gives at the bit position of the scan. -/
theorem trunc16_lowBit (s : State) (v : Int) : trunc16 (v * s.lowBit) = BitVec.ofInt 16 (v * 2 ^ s.scan.succLow.toNat) := by
  rw [State.lowBit, Nat.cast_pow]
  rfl

theorem loadedQt_loaded {s : State} {q : Fin 4} (h : s.qtLoaded.get q = true) : loadedQt q s = .ok (s.qt.get q) s := if_pos h

/-! ### The DC difference (R275, R276) -/

section
variable {s : State} {c : Nat}

/-- The predictor after the difference of category `c` in the next bits (R275). -/
def State.nextDc (s : State) (c : Nat) : BitVec 32 :=
  wrap32 ((s.comp.get s.blockComp).dcPred.toInt + magnitude c (s.bits.top c))

/-- The state after DecodeDcDiff has taken a difference of category `c` (R275). -/
def State.predicted (s : State) (c : Nat) : State :=
  (s.setBits (s.bits.consume c)).withDc s.blockComp (s.nextDc c)

theorem State.predicted_get (s : State) (c : Nat) :
    (s.predicted c).comp.get s.blockComp = { s.comp.get s.blockComp with dcPred := s.nextDc c } :=
  State.setComp_comp_same _ _ _

theorem State.coefficient_predicted (s : State) (c : Nat) (d : Fin 4) (b z : Nat) :
    (s.predicted c).coefficient d b z = s.coefficient d b z :=
  (State.coefficient_withDc ..).trans rfl

theorem State.decodes_predicted (s : State) (c : Nat) : s.Decodes (s.predicted c) :=
  .trans (t := s.setBits (s.bits.consume c)) (.of_comp rfl rfl) (.of_withDc _ _)

theorem State.Decodes.inCoef_eq {s t : State} (h : s.Decodes t) (d : Fin 4) (b i : Nat) : t.inCoef d b i = s.inCoef d b i := by
  have halloc : t.planesAllocated = s.planesAllocated := (congrArg State.planesAllocated h.rest :)
  rw [State.inCoef, halloc, h.get_eq]
  rfl

theorem State.Decodes.qTable_eq {s t : State} (h : s.Decodes t) : t.qTable = s.qTable := by
  rw [State.qTable, h.blockComp_eq, h.get_eq]
  rfl

theorem State.Decodes.acTable_eq {s t : State} (h : s.Decodes t) : t.acTable = s.acTable := by
  rw [State.acTable, h.blockComp_eq, h.get_eq]
  rfl

theorem dcPredict_enough (h : (c : Int) ≤ s.bits.count) : dcPredict c s = .ok () (s.predicted c) := by
  rw [dcPredict]
  by_cases hc : c = 0
  · subst hc
    rw [if_pos rfl, pure_bind, upd_apply, State.predicted, BitMachine.consume_zero]
    rfl
  · rw [if_neg hc]
    exact seq_bind_ok (rawBits_enough h) _

/-- The block buffer after the DC symbol of a baseline block (R274). -/
def dcBlock (dc : BitVec 32) (q : BitVec 16) : Vector (BitVec 16) 64 :=
  (Vector.replicate 64 0).set 0 (BitVec.ofInt 16 (dc.toInt * q.toNat))

theorem dcBaseline_enough (h : (c : Int) ≤ s.bits.count) (hq : s.qtLoaded.get s.qTable = true) :
    dcBaseline c s = .ok () ((s.predicted c).setBlk
      { s.blk with data := dcBlock (s.nextDc c) ((s.qt.get s.qTable).get 0), k := 1, done := false }) := by
  have htable : (s.predicted c).qTable = s.qTable := (s.decodes_predicted c).qTable_eq
  have hdc (b : BlockRegs) : (((s.predicted c).setBlk b).comp.get ((s.predicted c).setBlk b).blockComp).dcPred = s.nextDc c :=
    congrArg Comp.dcPred (s.predicted_get c)
  rw [dcBaseline, seq_bind_ok (dcPredict_enough h), look_bind, htable, seq_bind_ok (loadedQt_loaded (s := s.predicted c) hq),
    upd_bind, look_bind, hdc, at?_of_lt _ (by decide)]
  rfl

theorem dcFirstSymbol_enough (h : (c : Int) ≤ s.bits.count) (hin : s.inCoef s.blockComp s.blockNum 0 = true) :
    dcFirstSymbol c s = .ok () ((s.predicted c).writeCoef s.blockComp s.blockNum 0
      (BitVec.ofInt 16 ((s.nextDc c).toInt * 2 ^ s.scan.succLow.toNat))) := by
  have hd := s.decodes_predicted c
  have hdc : ((s.predicted c).comp.get s.blockComp).dcPred = s.nextDc c := congrArg Comp.dcPred (s.predicted_get c)
  rw [dcFirstSymbol, seq_bind_ok (dcPredict_enough h), get_bind, hd.blockComp_eq, hd.blockNum_eq, trunc16_lowBit, hdc]
  exact coefWrite_ok ((hd.inCoef_eq _ _ _).trans hin) _

/-- The predictor and a coefficient plane written, in one record. -/
theorem State.predicted_withCoef (s : State) (c : Nat) (m : Mem 16) :
    (s.predicted c).withCoef s.blockComp m =
      { s.setComp s.blockComp { s.comp.get s.blockComp with dcPred := s.nextDc c, coef := m } with bits := s.bits.consume c } := by
  rw [State.withCoef, State.predicted_get]
  exact State.setComp_setComp _ _ _ _

end

theorem exec_dcDiff (c : BitVec 4) (s : State) :
    exec (.dcDiff c) s = runOp (if s.frame.progressive then dcFirstSymbol c.toNat else dcBaseline c.toNat) s := rfl

/-- Settles O45: the predictor, then the DC coefficient where the frame's process stores it. -/
theorem dcDifferenceTaken : Obligations.DcDifferenceTaken := by
  intro s c hcount _ n v diff dc
  have hdc : dc = s.unheld.nextDc c.toNat := by
    rw [State.nextDc, magnitude_category, BitMachine.top_eq_div]
    rfl
  clear_value dc
  subst hdc
  refine ⟨fun hseq hq => ?_, fun hprog hin => ?_⟩
  · rw [exec_dcDiff, hseq]
    exact runOp_ok (dcBaseline_enough (s := s.unheld) hcount hq)
  · have hin' : (s.unheld.predicted c.toNat).inCoef n s.blockNum 0 = true :=
      ((s.unheld.decodes_predicted c.toNat).inCoef_eq n s.blockNum 0).trans hin
    rw [exec_dcDiff, hprog]
    refine ⟨_, runOp_ok (dcFirstSymbol_enough (s := s.unheld) hcount hin), ?_, ?_, fun m b z _ hout => ?_⟩
    · exact (State.withCoef_own ..).trans (s.unheld.predicted_withCoef _ _)
    · exact (State.coefficient_writeCoef hin' _ _ _ _).trans (if_pos ⟨rfl, rfl, rfl⟩)
    · exact (State.coefficient_writeCoef hin' _ _ _ _).trans ((if_neg hout).trans (s.unheld.coefficient_predicted _ _ _ _))

/-! ### Sequential AC symbols (R274) -/

section
variable {s : State} {r c : Nat}

/-- The state with the zig-zag position one past a run of `r` zero coefficients. -/
def State.pastRun (r : Nat) (s : State) : State := s.setBlk { s.blk with k := s.blk.k + r + 1 }

theorem advanceRun_bind {α : Type} (r : Nat) (f : Fin 64 → Seq α) (s : State) :
    (advanceRun r >>= f) s = f (dezigzag (s.blk.k + r)) (s.pastRun r) := rfl

theorem receiveExtend_enough (h : (c : Int) ≤ s.bits.count) :
    receiveExtend c s = .ok (magnitude c (s.bits.top c)) (s.setBits (s.bits.consume c)) := rawBits_enough h

theorem putCoef_loaded (hq : s.qtLoaded.get s.qTable = true) (z : Fin 64) (v : Int) :
    putCoef z v s = .ok () (s.setBlk { s.blk with
      data := s.blk.data.set z.val (BitVec.ofInt 16 (v * ((s.qt.get s.qTable).get z).toNat)) z.isLt }) := by
  rw [putCoef, look_bind, seq_bind_ok (loadedQt_loaded hq), at?_val]
  rfl

theorem acCoef_enough (h : (c : Int) ≤ s.bits.count) (hq : s.qtLoaded.get s.qTable = true) :
    acCoef r c s = .ok () ((s.setBits (s.bits.consume c)).setBlk { s.blk with
      data := s.blk.data.set (dezigzag (s.blk.k + r)).val (BitVec.ofInt 16
        (magnitude c (s.bits.top c) * ((s.qt.get s.qTable).get (dezigzag (s.blk.k + r))).toNat)) (dezigzag (s.blk.k + r)).isLt
      k := s.blk.k + r + 1 }) := by
  rw [acCoef, advanceRun_bind, seq_bind_ok (receiveExtend_enough (s := s.pastRun r) h), putCoef_loaded]
  · rfl
  · exact hq

end

/-- Settles O46. -/
theorem sequentialAcSymbols : Obligations.SequentialAcSymbols := by
  refine ⟨?_, fun s => rfl, fun s r => rfl⟩
  intro s r c hc hcount _ hq z v value
  have hvalue : value = magnitude c.toNat (s.bits.top c.toNat) := by
    rw [magnitude_category, if_neg hc, BitMachine.top_eq_div]
  rw [hvalue]
  exact runOp_ok (acCoef_enough (s := s.unheld) hcount hq)

/-! ### Symbols of a progressive first scan (R278, R279) -/

section
variable {s : State} {r c : Nat}

theorem putBlockCoef_ok {z : Fin 64} (hin : s.inCoef s.blockComp s.blockNum z.val = true) (v : Int) :
    putBlockCoef z v s = .ok () (s.writeCoef s.blockComp s.blockNum z.val (trunc16 v)) := coefWrite_ok hin _

theorem acpCoef_enough (h : (c : Int) ≤ s.bits.count)
    (hin : s.inCoef s.blockComp s.blockNum (dezigzag (s.blk.k + r)).val = true) :
    acpCoef r c s = .ok () (((s.setBits (s.bits.consume c)).setBlk { s.blk with k := s.blk.k + r + 1 }).writeCoef
      s.blockComp s.blockNum (dezigzag (s.blk.k + r)).val
      (BitVec.ofInt 16 (magnitude c (s.bits.top c) * 2 ^ s.scan.succLow.toNat))) := by
  rw [acpCoef, advanceRun_bind, seq_bind_ok (receiveExtend_enough (s := s.pastRun r) h), look_bind, putBlockCoef_ok,
    trunc16_lowBit]
  · rfl
  · exact hin

theorem setEobRun_bind {α : Type} (f : BitVec 32 → BitVec 32) (g : Unit → Seq α) (s : State) :
    (setEobRun f >>= g) s = g () (s.setScan { s.scan with eobRun := f s.scan.eobRun }) := rfl

/-- The bits of an EOB symbol are added to the run (R278, R281). -/
theorem addEobBits_enough (h : (r : Int) ≤ s.bits.count) :
    addEobBits r s = .ok () ((s.setBits (s.bits.consume r)).setScan
      { s.scan with eobRun := s.scan.eobRun + BitVec.ofNat 32 (s.bits.top r) }) := by
  by_cases hr : r = 0
  · subst hr
    have htop : s.bits.top 0 = 0 := Nat.lt_one_iff.1 (s.bits.top_lt (Nat.zero_le 32))
    have hrun : s.scan.eobRun + BitVec.ofNat 32 0 = s.scan.eobRun := BitVec.add_zero _
    rw [htop, hrun, BitMachine.consume_zero]
    rfl
  · rw [addEobBits, if_neg hr]
    exact seq_bind_ok (rawBits_enough h) _

theorem acpEobrun_enough (h : (r : Int) ≤ s.bits.count) :
    acpEobrun r s = .ok () (((s.setBits (s.bits.consume r)).setScan
      { s.scan with eobRun := BitVec.ofNat 32 (2 ^ r + s.bits.top r - 1) }).setBlk { s.blk with done := true }) := by
  have hrun : BitVec.ofNat 32 (2 ^ r) + BitVec.ofNat 32 (s.bits.top r) - 1 = BitVec.ofNat 32 (2 ^ r + s.bits.top r - 1) := by
    rw [← BitVec.ofNat_add]
    exact BitVec.ofNat_sub_ofNat_of_le _ _ (by decide) (Nat.le_add_right_of_le Nat.one_le_two_pow)
  rw [acpEobrun, setEobRun_bind,
    seq_bind_ok (addEobBits_enough (s := s.setScan { s.scan with eobRun := BitVec.ofNat 32 (2 ^ r) }) h), setEobRun_bind, ← hrun]
  rfl

end

/-- Settles O47. -/
theorem progressiveFirstSymbols : Obligations.ProgressiveFirstSymbols := by
  refine ⟨fun s r c hc hcount _ => ?_, fun s => rfl, fun s r hcount _ => ?_⟩
  · intro z n v value hin
    have hvalue : value = magnitude c.toNat (s.bits.top c.toNat) := by
      rw [magnitude_category, if_neg hc, BitMachine.top_eq_div]
    rw [hvalue]
    refine ⟨_, runOp_ok (acpCoef_enough (s := s.unheld) hcount hin), State.withCoef_own .., ?_, fun m b y _ hout => ?_⟩
    · exact (State.coefficient_writeCoef hin _ _ _ _).trans (if_pos ⟨rfl, rfl, rfl⟩)
    · exact (State.coefficient_writeCoef hin _ _ _ _).trans (if_neg hout)
  · rw [← BitMachine.top_eq_div]
    exact runOp_ok (acpEobrun_enough (s := s.unheld) hcount)

/-! ### DC refinement (R277) -/

section
variable {s : State} {p : BitVec 16} {b : Bool} {c : BitMachine}

/-- The state after a DC refinement bit `b` on the coefficient `p`. -/
def State.dcRefined (s : State) (p : BitVec 16) (b : Bool) : State :=
  s.withCoef s.blockComp (if b then
    (s.comp.get s.blockComp).coef.write (64 * s.blockNum + 0) (BitVec.ofInt 16 (p.toInt + 2 ^ s.scan.succLow.toNat))
    else (s.comp.get s.blockComp).coef)

theorem dcRefineWith_ok {readBit : Seq Bool} (hp : s.coefficient s.blockComp s.blockNum 0 = some p)
    (hb : readBit s = .ok b (s.setBits c)) : dcRefineWith readBit s = .ok () ((s.setBits c).dcRefined p b) := by
  have hin := State.inCoef_of_coefficient hp
  rw [dcRefineWith, get_bind, seq_bind_ok (coefRead_ok hp), seq_bind_ok hb, onlyIf_apply]
  cases b with
  | true =>
    refine (if_pos rfl).trans ((coefWrite_ok (s := s.setBits c) hin _).trans ?_)
    rw [State.lowBit, Nat.cast_pow]
    rfl
  | false => exact (if_neg Bool.false_ne_true).trans (congrArg _ ((s.setBits c).withCoef_self _).symm)

/-- A 1 adds `2^succ_low` to the coefficient, a 0 leaves it. -/
theorem State.coefficient_dcRefined (hp : s.coefficient s.blockComp s.blockNum 0 = some p) (m : Fin 4) (b' z : Nat) :
    (s.dcRefined p b).coefficient m b' z =
      if b = true ∧ m = s.blockComp ∧ b' = s.blockNum ∧ z = 0 then
        some (BitVec.ofInt 16 (p.toInt + 2 ^ s.scan.succLow.toNat))
      else s.coefficient m b' z := by
  cases b with
  | true =>
    refine (State.coefficient_writeCoef (State.inCoef_of_coefficient hp) _ _ _ _).trans ?_
    simp only [true_and]
  | false =>
    rw [if_neg fun h => Bool.false_ne_true h.1]
    exact congrArg (fun u : State => u.coefficient m b' z) (s.withCoef_self _)

end

/-- Settles O49: the coefficient is read first, so one that is not written faults. -/
theorem dcRefinementAndBadSymbols : Obligations.DcRefinementAndBadSymbols := by
  refine ⟨fun s b p hp => ?_, fun s b hin hnone => runOp_fault (t := s.unheld) ?_, fun s r c => rfl⟩
  · exact ⟨_, runOp_ok (dcRefineWith_ok (s := s.unheld) (c := s.bits) hp rfl), State.withCoef_own ..,
      fun m b' z _ => State.coefficient_dcRefined (s := s.unheld) hp m b' z⟩
  · have hread : coefRead s.blockComp s.blockNum 0 s.unheld = .error (.fault .unwrittenCoefficient) s.unheld := by
      rw [State.coefficient, if_pos hin] at hnone
      exact (if_pos hin).trans (by rw [State.unheld_comp, hnone])
    rw [dcRefineWith, get_bind]
    exact seq_bind_error hread _

/-! ### Correction bits (R282, R283) -/

section
variable {co : Nat → BitVec 16} {k e : Nat}

theorem nonzeros_of_le (h : e ≤ k) : nonzeros co k e = 0 := by
  rw [nonzeros, Nat.sub_eq_zero_of_le h]
  rfl

theorem nonzeros_of_lt (h : k < e) : nonzeros co k e = (if co k = 0 then 0 else 1) + nonzeros co (k + 1) e := by
  have hlen : e - k = (e - (k + 1)) + 1 := by omega
  have hshift : (fun i => co (k + (i + 1)) != 0) = fun i => co (k + 1 + i) != 0 := by
    funext i
    rw [Nat.add_assoc, Nat.add_comm 1 i]
  rw [nonzeros, hlen, List.range_succ_eq_map, List.filter_cons, List.filter_map, nonzeros]
  simp only [Nat.add_zero, Function.comp_def, Nat.succ_eq_add_one, hshift]
  by_cases hk : co k = 0
  · rw [if_neg (not_not.2 hk ∘ bne_iff_ne.1), if_pos hk, List.length_map, Nat.zero_add]
  · rw [if_pos (bne_iff_ne.2 hk), if_neg hk, List.length_cons, List.length_map, Nat.add_comm]

theorem nonzeros_le : nonzeros co k e ≤ e - k :=
  (List.length_filter_le _ _).trans (List.length_range).le

/-- The nonzero coefficients before a nonzero one. -/
theorem nonzeros_lt_nonzeros {j : Nat} (hkj : k ≤ j) (hje : j < e) (hj : co j ≠ 0) : nonzeros co k j < nonzeros co k e := by
  induction hn : j - k generalizing k with
  | zero =>
    obtain rfl : j = k := by omega
    rw [nonzeros_of_le (Nat.le_refl j), nonzeros_of_lt hje, if_neg hj]
    omega
  | succ n ih =>
    rw [nonzeros_of_lt (by omega : k < j), nonzeros_of_lt (by omega : k < e)]
    exact Nat.add_lt_add_left (ih (by omega) (by omega)) _

end

/-- The bits after a consumed field are those behind it. -/
theorem BitMachine.getLsbD_consume (b : BitMachine) {n i : Nat} (h : n + i ≤ 31) :
    (b.consume n).codeBuffer.getLsbD (31 - i) = b.codeBuffer.getLsbD (31 - (n + i)) := by
  have hlt : 31 - i < 32 := by omega
  have hge : ¬31 - i < n := by omega
  simp only [BitMachine.consume, BitVec.getLsbD_shiftLeft, hlt, hge, decide_true, decide_false, Bool.not_false, Bool.and_true,
    Bool.true_and]
  congr 1
  omega

section
variable {s : State} {z : Fin 64} {p : BitVec 16}

/-- What a coefficient is after it has been passed with the correction bit `b`. -/
def passedValue (al : Nat) (p : BitVec 16) (b : Bool) : BitVec 16 := if p = 0 then 0 else corrected al p b

/-- The state after the nonzero coefficient `p` at `z` has taken the correction bit `b` (R283). -/
def State.withCorrection (z : Fin 64) (p : BitVec 16) (b : Bool) (s : State) : State :=
  s.withCoef s.blockComp (if b && !p.getLsbD s.scan.succLow.toNat then
    (s.comp.get s.blockComp).coef.write (64 * s.blockNum + z.val) (corrected s.scan.succLow.toNat p b)
    else (s.comp.get s.blockComp).coef)

/-- The state after the coefficient `p` at `z` has been passed: a nonzero one takes the next bit (R282). -/
def State.passed (z : Fin 64) (p : BitVec 16) (s : State) : State :=
  if p = 0 then s else (s.setBits (s.bits.consume 1)).withCorrection z p (s.bits.codeBuffer.getLsbD 31)

theorem getBit_enough (h : 1 ≤ s.bits.count) :
    getBit s = .ok (s.bits.codeBuffer.getLsbD 31) (s.setBits (s.bits.consume 1)) := by
  rw [← BitMachine.top_one]
  exact rawBits_enough (n := 1) h

theorem refineBit_ok (hp : s.coefficient s.blockComp s.blockNum z.val = some p) (h0 : p ≠ 0) (h : 1 ≤ s.bits.count) :
    refineBit z s = .ok () (s.passed z p) := by
  have hin := State.inCoef_of_coefficient hp
  rw [refineBit, get_bind, seq_bind_ok (coefRead_ok hp), seq_bind_ok (getBit_enough h), onlyIf_apply, State.passed, if_neg h0,
    State.withCorrection]
  generalize s.bits.codeBuffer.getLsbD 31 = b
  by_cases hb : (b && !p.getLsbD s.scan.succLow.toNat) = true
  · have hv : trunc16 (if 0 < p.toInt then p.toInt + s.lowBit else p.toInt - s.lowBit) = corrected s.scan.succLow.toNat p b := by
      have hb' : b = true ∧ p.getLsbD s.scan.succLow.toNat = false := by simpa using hb
      rw [corrected, if_pos hb', State.lowBit, Nat.cast_pow]
      rfl
    rw [State.setBits_scan, if_pos hb, if_pos hb, hv]
    exact coefWrite_ok (s := s.setBits (s.bits.consume 1)) hin _
  · rw [State.setBits_scan, if_neg hb, if_neg hb]
    exact congrArg _ (State.withCoef_self _ _).symm

theorem State.coefficient_withCorrection {b : Bool} (hp : s.coefficient s.blockComp s.blockNum z.val = some p) (m : Fin 4)
    (b' y : Nat) :
    (s.withCorrection z p b).coefficient m b' y =
      if m = s.blockComp ∧ b' = s.blockNum ∧ y = z.val then some (corrected s.scan.succLow.toNat p b)
      else s.coefficient m b' y := by
  rw [State.withCorrection]
  by_cases hb : (b && !p.getLsbD s.scan.succLow.toNat) = true
  · rw [if_pos hb]
    exact State.coefficient_writeCoef (State.inCoef_of_coefficient hp) _ _ _ _
  · have hb' : ¬(b = true ∧ p.getLsbD s.scan.succLow.toNat = false) := by simpa using hb
    rw [if_neg hb, State.withCoef_self, corrected, if_neg hb']
    split
    · rename_i hhere
      obtain ⟨rfl, rfl, rfl⟩ := hhere
      exact hp
    · rfl

theorem State.coefficient_passed (hp : s.coefficient s.blockComp s.blockNum z.val = some p) (m : Fin 4) (b y : Nat) :
    (s.passed z p).coefficient m b y =
      if m = s.blockComp ∧ b = s.blockNum ∧ y = z.val then
        some (passedValue s.scan.succLow.toNat p (s.bits.codeBuffer.getLsbD 31))
      else s.coefficient m b y := by
  rw [State.passed, passedValue]
  by_cases h0 : p = 0
  · rw [if_pos h0, if_pos h0]
    split
    · rename_i hhere
      obtain ⟨rfl, rfl, rfl⟩ := hhere
      rw [hp, h0]
    · rfl
  · rw [if_neg h0, if_neg h0]
    exact State.coefficient_withCorrection (s := s.setBits (s.bits.consume 1)) hp m b y

theorem State.decodes_passed (hp : s.coefficient s.blockComp s.blockNum z.val = some p) : s.Decodes (s.passed z p) := by
  have hbits : s.Decodes (s.setBits (s.bits.consume 1)) := .of_comp rfl rfl
  unfold State.passed State.withCorrection
  split
  · exact .refl s
  · split
    · exact hbits.trans (.of_writeCoef (s := s.setBits (s.bits.consume 1)) (State.inCoef_of_coefficient hp) _)
    · rw [State.withCoef_self]
      exact hbits

theorem State.passed_bits (s : State) (z : Fin 64) (p : BitVec 16) :
    (s.passed z p).bits = s.bits.consume (if p = 0 then 0 else 1) := by
  unfold State.passed
  split
  · exact (s.bits.consume_zero).symm
  · rfl

theorem State.passed_blk (s : State) (z : Fin 64) (p : BitVec 16) : (s.passed z p).blk = s.blk := by
  unfold State.passed
  split <;> rfl

theorem State.passed_scan (s : State) (z : Fin 64) (p : BitVec 16) : (s.passed z p).scan = s.scan := by
  unfold State.passed
  split <;> rfl

end

/-- The state with `n` bits taken, the zig-zag position at `k` and the plane of the block's component `m`. -/
def State.refinedTo (n k : Nat) (m : Mem 16) (s : State) : State :=
  ((s.setBits (s.bits.consume n)).setBlk { s.blk with k := k }).withCoef s.blockComp m

theorem State.refinedTo_self (s : State) : s.refinedTo 0 s.blk.k (s.comp.get s.blockComp).coef = s := by
  rw [State.refinedTo, BitMachine.consume_zero]
  exact s.withCoef_self _

theorem State.passed_refinedTo (s : State) (z : Fin 64) (p : BitVec 16) (n k : Nat) (m : Mem 16) :
    (s.passed z p).refinedTo n k m = s.refinedTo ((if p = 0 then 0 else 1) + n) k m := by
  unfold State.passed
  split
  · rw [Nat.zero_add]
  · rw [State.refinedTo, State.refinedTo, ← BitMachine.consume_consume]
    exact ((s.setBits ((s.bits.consume 1).consume n)).setBlk { s.blk with k := k }).withCoef_withCoef s.blockComp _ m

section
variable {s t : State} {co : Nat → BitVec 16} {k last e f : Nat} {v : BitVec 16}

/-- Nothing to refine: the position is past the band. -/
theorem State.refined_past (h : last < k) : s.Refined co k last e 0 v s :=
  ⟨fun _ hkj hj => absurd (Nat.le_trans hkj hj) (Nat.not_le.2 h), fun _ _ _ _ _ => rfl⟩

/-- A passed coefficient leaves the rest of the band as it was. -/
theorem State.BandIs.passed (hlast : last ≤ 63) (hk : k ≤ last) (h : s.BandIs co k last) :
    (s.passed (dezigzag k) (co k)).BandIs co (k + 1) last := by
  have hp := h k (Nat.le_refl k) hk
  have hd := State.decodes_passed hp
  intro j hkj hj
  rw [hd.blockComp_eq, hd.blockNum_eq, State.coefficient_passed hp, if_neg, h j (by omega) hj]
  rintro ⟨-, -, hz⟩
  exact absurd (dezigzag_inj (by omega) (by omega) (Fin.ext hz)) (by omega)

/-- One coefficient passed, then the rest of the band refined (R282). -/
theorem State.Refined.pass (hlast : last ≤ 63) (hk : k ≤ last) (hke : k < e) (hband : s.BandIs co k last)
    (h32 : nonzeros co k e ≤ 32) (h : (s.passed (dezigzag k) (co k)).Refined co (k + 1) last e 0 v t) :
    s.Refined co k last e 0 v t := by
  have hp := hband k (Nat.le_refl k) hk
  have hd := State.decodes_passed hp
  have hlow : (s.passed (dezigzag k) (co k)).scan.succLow = s.scan.succLow :=
    (congrArg (fun u : State => u.scan.succLow) hd.rest :)
  obtain ⟨hin, hout⟩ := h
  rw [hd.blockComp_eq, hd.blockNum_eq, hlow] at hin
  rw [hd.blockComp_eq, hd.blockNum_eq] at hout
  refine ⟨fun j hkj hj => ?_, fun m b z hz hm => ?_⟩
  · rcases Nat.eq_or_lt_of_le hkj with rfl | hlt
    · have hother := hout s.blockComp s.blockNum (dezigzag k).val (dezigzag k).isLt fun _ _ i hki hi hz =>
        absurd (dezigzag_inj (by omega) (by omega) (Fin.ext hz)) (by omega : k ≠ i)
      rw [hother, State.coefficient_passed hp, if_pos ⟨rfl, rfl, rfl⟩, if_pos hke, nonzeros_of_le (Nat.le_refl k)]
      rfl
    · rw [hin j hlt hj]
      by_cases hje : j < e
      · rw [if_pos hje, if_pos hje]
        by_cases hj0 : co j = 0
        · rw [if_pos hj0, if_pos hj0]
        · have hbound := nonzeros_lt_nonzeros hkj hje hj0
          have hsplit := nonzeros_of_lt (co := co) hlt
          rw [if_neg hj0, if_neg hj0, Nat.zero_add, Nat.zero_add, State.passed_bits, BitMachine.getLsbD_consume _ (by omega),
            ← hsplit]
      · rw [if_neg hje, if_neg hje]
  · rw [hout m b z hz fun hmc hbn i hki hi => hm hmc hbn i (by omega) hi, State.coefficient_passed hp, if_neg]
    rintro ⟨hmc, hbn, hzk⟩
    exact hm hmc hbn k (Nat.le_refl k) hk hzk

/-- The correction bits stand behind a field of `f` bits that has been taken. -/
theorem State.Refined.of_consumed (hf : f + nonzeros co k e ≤ 32)
    (h : (s.setBits (s.bits.consume f)).Refined co k last e 0 v t) : s.Refined co k last e f v t := by
  obtain ⟨hin, hout⟩ := h
  refine ⟨fun j hkj hj => (hin j hkj hj).trans (congrArg some ?_), hout⟩
  by_cases hje : j < e
  · rw [if_pos hje, if_pos hje]
    by_cases hj0 : co j = 0
    · rw [if_pos hj0, if_pos hj0]
    · have hbound := nonzeros_lt_nonzeros hkj hje hj0
      rw [if_neg hj0, if_neg hj0, Nat.zero_add, State.setBits_bits, BitMachine.getLsbD_consume _ (by omega)]
      rfl
  · rw [if_neg hje, if_neg hje]

/-- A coefficient written at the head of the band. -/
theorem State.refined_here (hlast : last ≤ 63) (hk : k ≤ last) (hband : s.BandIs co k last) :
    s.Refined co k last k 0 v (s.writeCoef s.blockComp s.blockNum (dezigzag k).val v) := by
  have hin := State.inCoef_of_coefficient (hband k (Nat.le_refl k) hk)
  refine ⟨fun j hkj hj => ?_, fun m b z hz hm => ?_⟩
  · rw [State.coefficient_writeCoef hin, if_neg (Nat.not_lt.2 hkj)]
    by_cases hjk : j = k
    · subst hjk
      rw [if_pos ⟨rfl, rfl, rfl⟩, if_pos rfl]
    · rw [if_neg hjk, if_neg, hband j hkj hj]
      rintro ⟨-, -, hz⟩
      exact hjk (dezigzag_inj (by omega) (by omega) (Fin.ext hz))
  · rw [State.coefficient_writeCoef hin, if_neg]
    rintro ⟨hmc, hbn, hzk⟩
    exact hm hmc hbn k (Nat.le_refl k) hk hzk

end

/-! ### Advance (R282) -/

section
variable {s : State} {co : Nat → BitVec 16} {last e n r : Nat} {v : Int}

theorem advance_past (h : s.scan.specEnd.toNat < s.blk.k) : advance v n r s = .ok () s := by
  cases n with
  | zero => rfl
  | succ n => rw [advance, look_bind, State.pastBand, decide_eq_true h, if_pos rfl, seq_pure]

/-- The next position of the band: a nonzero coefficient is passed, a zero one counts, and the last is written. -/
theorem advance_next {p : BitVec 16} (hk : s.blk.k ≤ s.scan.specEnd.toNat)
    (hp : s.coefficient s.blockComp s.blockNum (dezigzag s.blk.k).val = some p) (hcount : p ≠ 0 → 1 ≤ s.bits.count) :
    advance v (n + 1) r s =
      if p = 0 ∧ r = 0 then
        .ok () ((s.writeCoef s.blockComp s.blockNum (dezigzag s.blk.k).val (trunc16 v)).pastRun 0)
      else advance v n (if p = 0 then r - 1 else r) ((s.passed (dezigzag s.blk.k) p).pastRun 0) := by
  have hpast : s.pastBand = false := decide_eq_false (Nat.not_lt.2 hk)
  have hread : blockCoef (dezigzag s.blk.k) (s.pastRun 0) = .ok p.toInt (s.pastRun 0) := by
    rw [blockCoef, get_bind]
    exact seq_bind_ok (coefRead_ok (s := s.pastRun 0) hp) _
  rw [advance, look_bind, hpast, if_neg Bool.false_ne_true, advanceRun_bind, Nat.add_zero, seq_bind_ok hread]
  by_cases h0 : p = 0
  · have hz : ¬p.toInt ≠ 0 := by rw [h0]; decide
    rw [if_neg hz, if_pos h0, State.passed, if_pos h0]
    by_cases hr : r = 0
    · rw [if_pos hr, if_pos ⟨h0, hr⟩]
      exact putBlockCoef_ok (s := s.pastRun 0) (State.inCoef_of_coefficient hp) v
    · rw [if_neg hr, if_neg fun h => hr h.2]
  · have hnz : p.toInt ≠ 0 := fun h => h0 (BitVec.eq_of_toInt_eq h)
    have hrefine : refineBit (dezigzag s.blk.k) (s.pastRun 0) = .ok () ((s.passed (dezigzag s.blk.k) p).pastRun 0) := by
      rw [refineBit_ok (s := s.pastRun 0) hp h0 (hcount h0), State.passed, State.passed, if_neg h0, if_neg h0]
      rfl
    rw [if_pos hnz, seq_bind_ok hrefine, if_neg fun h => h0 h.1, if_neg h0]

theorem stopsAt_next {k : Nat} (hke : k < e) (hgo : ¬(co k = 0 ∧ r = 0)) (h : StopsAt co k last r e) :
    StopsAt co (k + 1) last (if co k = 0 then r - 1 else r) e := by
  have hsplit := nonzeros_of_lt (co := co) hke
  by_cases h0 : co k = 0
  · have hr : r ≠ 0 := fun hr => hgo ⟨h0, hr⟩
    rw [if_pos h0] at hsplit ⊢
    rcases h with ⟨-, hle, he, hrun⟩ | ⟨rfl, hrun⟩
    · exact .inl ⟨hke, hle, he, by omega⟩
    · exact .inr ⟨rfl, by omega⟩
  · rw [if_neg h0] at hsplit ⊢
    rcases h with ⟨-, hle, he, hrun⟩ | ⟨rfl, hrun⟩
    · exact .inl ⟨hke, hle, he, by omega⟩
    · exact .inr ⟨rfl, by omega⟩

/-- From `s` the piece takes the band up to its end `last` or the stop `e`, with the new coefficient `v` (R282). -/
def State.AdvancesTo (s : State) (co : Nat → BitVec 16) (last e : Nat) (v : BitVec 16) (m : Seq Unit) : Prop :=
  ∃ t plane, m s = .ok () t ∧ t = s.refinedTo (nonzeros co s.blk.k e) (max s.blk.k (min e last + 1)) plane ∧
    s.Refined co s.blk.k last e 0 v t

theorem advancesTo_past (hspec : s.scan.specEnd.toNat = last) (hk : last < s.blk.k) (hstop : StopsAt co s.blk.k last r e) :
    s.AdvancesTo co last e (trunc16 v) (advance v n r) := by
  have he : e = last + 1 := by rcases hstop with ⟨h, h', -⟩ | ⟨h, -⟩ <;> omega
  subst he
  have hmax : max s.blk.k (min (last + 1) last + 1) = s.blk.k := by omega
  refine ⟨s, (s.comp.get s.blockComp).coef, advance_past (by omega), ?_, State.refined_past hk⟩
  rw [nonzeros_of_le hk, hmax, State.refinedTo_self]

/-- Advance passes the band up to where it stops, each nonzero coefficient with a bit of its own (R282, R283). -/
theorem advancesTo_advance (hspec : s.scan.specEnd.toNat = last) (hlast : last ≤ 63) (hband : s.BandIs co s.blk.k last)
    (hstop : StopsAt co s.blk.k last r e) (hcount : (nonzeros co s.blk.k e : Int) ≤ s.bits.count) (h32 : s.bits.count ≤ 32)
    (hn : last + 1 - s.blk.k ≤ n) : s.AdvancesTo co last e (trunc16 v) (advance v n r) := by
  induction n generalizing s r with
  | zero => exact advancesTo_past hspec (by omega) hstop
  | succ n ih =>
    rcases Nat.lt_or_ge last s.blk.k with hk | hk
    · exact advancesTo_past hspec hk hstop
    have hp := hband s.blk.k (Nat.le_refl _) hk
    have hke : s.blk.k < e ∨ (e = s.blk.k ∧ co s.blk.k = 0 ∧ r = 0) := by
      rcases hstop with ⟨hle, -, h0, hrun⟩ | ⟨rfl, -⟩
      · rcases Nat.eq_or_lt_of_le hle with rfl | hlt
        · exact .inr ⟨rfl, h0, by omega⟩
        · exact .inl hlt
      · exact .inl (by omega)
    have hnext := advance_next (v := v) (n := n) (r := r) (hspec ▸ hk) hp fun h0 => by
      rcases hke with hke | ⟨-, h0', -⟩
      · rw [nonzeros_of_lt hke, if_neg h0] at hcount
        omega
      · exact absurd h0' h0
    rcases hke with hke | ⟨rfl, h0, rfl⟩
    · have hsplit := nonzeros_of_lt (co := co) hke
      have hrest := nonzeros_le (co := co) (k := s.blk.k + 1) (e := e)
      have hgo : ¬(co s.blk.k = 0 ∧ r = 0) := by
        rintro ⟨h0, rfl⟩
        rw [if_pos h0] at hsplit
        rcases hstop with ⟨-, -, -, hrun⟩ | ⟨rfl, hrun⟩ <;> omega
      rw [if_neg hgo] at hnext
      have hpos : ((s.passed (dezigzag s.blk.k) (co s.blk.k)).pastRun 0).blk.k = s.blk.k + 1 :=
        congrArg (fun b : BlockRegs => b.k + 1) (s.passed_blk _ _)
      have hscan : ((s.passed (dezigzag s.blk.k) (co s.blk.k)).pastRun 0).scan = s.scan := s.passed_scan _ _
      have hbits : ((s.passed (dezigzag s.blk.k) (co s.blk.k)).pastRun 0).bits.count =
          s.bits.count - (if co s.blk.k = 0 then 0 else 1 : Nat) := by
        refine (congrArg BitMachine.count (s.passed_bits _ _)).trans (BitMachine.consume_count (by omega))
      obtain ⟨t, m, hrun, ht, hrefined⟩ := ih (s := (s.passed (dezigzag s.blk.k) (co s.blk.k)).pastRun 0)
        (r := if co s.blk.k = 0 then r - 1 else r) (by rw [hscan, hspec]) (by rw [hpos]; exact hband.passed hlast hk)
        (by rw [hpos]; exact stopsAt_next hke hgo hstop) (by rw [hpos]; omega) (by omega) (by omega)
      rw [hpos] at ht hrefined
      refine ⟨t, m, hnext.trans hrun, ht.trans ?_, hrefined.pass hlast hk hke hband (by omega)⟩
      have hmax : max (s.blk.k + 1) (min e last + 1) = max s.blk.k (min e last + 1) := by omega
      rw [hmax, hsplit]
      exact s.passed_refinedTo _ _ _ _ m
    · have hmax : max s.blk.k (min s.blk.k last + 1) = s.blk.k + 1 := by omega
      rw [if_pos ⟨h0, rfl⟩] at hnext
      refine ⟨_, (s.comp.get s.blockComp).coef.write (64 * s.blockNum + (dezigzag s.blk.k).val) (trunc16 v), hnext, ?_,
        State.refined_here hlast hk hband⟩
      rw [nonzeros_of_le (Nat.le_refl _), hmax, State.refinedTo, BitMachine.consume_zero]
      rfl

/-- The state after a refinement symbol: `f + nonzeros` bits taken and the run `run`, the plane of the block's component being that
of `t`. -/
def State.afterRefine (s t : State) (bits k : Nat) (run : BitVec 32) : State :=
  { s.setComp s.blockComp { s.comp.get s.blockComp with coef := (t.comp.get s.blockComp).coef } with
    bits := s.bits.consume bits, scan := { s.scan with eobRun := run }, blk := { s.blk with k := k } }

/-- Advance behind a field of `f` bits, which may have set the run. -/
theorem advance_behind (f : Nat) (run : BitVec 32) (hspec : s.scan.specEnd.toNat = last) (hlast : last ≤ 63)
    (hband : s.BandIs co s.blk.k last) (h32 : s.bits.count ≤ 32) (hstop : StopsAt co s.blk.k last r e)
    (hcount : ((f + nonzeros co s.blk.k e : Nat) : Int) ≤ s.bits.count) :
    ∃ t, advance v 256 r ((s.setBits (s.bits.consume f)).setScan { s.scan with eobRun := run }) = .ok () t ∧
      t = s.afterRefine t (f + nonzeros co s.blk.k e) (max s.blk.k (min e last + 1)) run ∧
      s.Refined co s.blk.k last e f (trunc16 v) t := by
  have hleft := BitMachine.consume_count (m := s.bits) (n := f) (by omega)
  obtain ⟨t, plane, hrun, ht, hrefined⟩ := advancesTo_advance (v := v) (n := 256) (r := r)
    (s := (s.setBits (s.bits.consume f)).setScan { s.scan with eobRun := run }) hspec hlast hband hstop
    (by exact (by omega : (nonzeros co s.blk.k e : Int) ≤ (s.bits.consume f).count))
    (by exact (by omega : (s.bits.consume f).count ≤ 32)) (by omega)
  refine ⟨t, hrun, ?_, State.Refined.of_consumed (by omega) hrefined⟩
  have hplane := State.withCoef_own (((s.setBits ((s.bits.consume f).consume (nonzeros co s.blk.k e))).setScan
    { s.scan with eobRun := run }).setBlk { s.blk with k := max s.blk.k (min e last + 1) }) s.blockComp plane
  rw [State.afterRefine, ← BitMachine.consume_consume]
  exact ht.trans (hplane.trans (by rw [ht]; rfl))

end

/-- The run of an EOB symbol is set before the band is passed (R281). -/
theorem acrEobrun_enough {s : State} {r : Nat} (h : (r : Int) ≤ s.bits.count) :
    acrEobrun r s = advance 0 256 64 ((s.setBits (s.bits.consume r)).setScan
      { s.scan with eobRun := BitVec.ofNat 32 (2 ^ r - 1 + s.bits.top r) }) := by
  rw [acrEobrun, setEobRun_bind,
    seq_bind_ok (addEobBits_enough (s := s.setScan { s.scan with eobRun := BitVec.ofNat 32 (2 ^ r - 1) }) h), BitVec.ofNat_add]
  rfl

/-- Settles O48: each symbol's own bits, then Advance. -/
theorem refinementSymbols : Obligations.RefinementSymbols := by
  intro s co n k last hlast hband h32
  refine ⟨fun r e hstop hcount => ?_, fun e hstop hcount => ?_, fun r hcount => ?_⟩
  · obtain ⟨t, hrun, ht, hrefined⟩ := advance_behind (s := s.unheld)
      (v := if s.bits.codeBuffer.getLsbD 31 then (s.lowBit : Int) else -(s.lowBit : Int)) 1 s.scan.eobRun rfl hlast hband h32
      hstop hcount
    refine ⟨t, runOp_ok ?_, ht, ?_⟩
    · rw [acrCoef, seq_bind_ok (getBit_enough (s := s.unheld) (by exact (by omega : 1 ≤ s.bits.count))), look_bind]
      exact hrun
    · rw [State.lowBit, Nat.cast_pow] at hrefined
      exact hrefined
  · obtain ⟨t, hrun, ht, hrefined⟩ := advance_behind (s := s.unheld) (v := 0) 0 s.scan.eobRun rfl hlast hband h32 hstop
      (by rwa [Nat.zero_add])
    rw [Nat.zero_add] at ht
    refine ⟨t, runOp_ok ?_, ht, hrefined⟩
    rw [BitMachine.consume_zero] at hrun
    exact hrun
  · have hstop : StopsAt co k last 64 (last + 1) := .inr ⟨rfl, by omega⟩
    obtain ⟨t, hrun, ht, hrefined⟩ := advance_behind (s := s.unheld) (v := 0) r.toNat
      (BitVec.ofNat 32 (2 ^ r.toNat - 1 + s.bits.top r.toNat)) rfl hlast hband h32 hstop hcount
    have hmin : min (last + 1) s.unheld.scan.specEnd.toNat = last := Nat.min_eq_right (Nat.le_succ last)
    rw [hmin] at ht
    refine ⟨t, runOp_ok ?_, ?_, hrefined⟩
    · have hbits : (r.toNat : Int) ≤ s.bits.count := by omega
      exact (acrEobrun_enough (s := s.unheld) hbits).trans hrun
    · rw [← BitMachine.top_eq_div]
      exact ht

/-! ### Symbols in a block (R183, R189) -/

section
variable {s t : State}

/-- What a piece that ran to its end has done. -/
theorem Decoding.ok {α : Type} {m : Seq α} {a : α} (hm : Decoding s m) (h : m s = .ok a t) : s.Decodes t := by
  have ht := hm s (.refl s)
  rwa [h] at ht

/-- The next symbol depends on the tables and the bits only. -/
theorem State.NextSymbol.of_eq {tc : Fin 2} {th : Fin 4} {v : Byte} {n : Nat} (h : s.NextSymbol tc th v n)
    (hhuff : t.huff = s.huff) (hbits : t.bits = s.bits) : t.NextSymbol tc th v n := by
  rw [State.NextSymbol, State.huffAt, hhuff, hbits]
  exact h

/-- The next symbol, with its code there (R183). -/
theorem decodeHuffman_symbol {tc : Fin 2} {th : Fin 4} {v : Byte} {n : Nat} (h16 : 16 ≤ s.bits.count)
    (hv : s.NextSymbol tc th v n) (hn : (n : Int) ≤ s.bits.count) :
    decodeHuffman tc th s = .ok v (s.setBits (s.bits.consume n)) := by
  obtain ⟨hloaded, hfast, rfl, rfl⟩ := hv
  rw [decodeHuffman_enough h16 hloaded, if_pos hfast]
  exact decodeFast_ok hn

theorem dcCategory_symbol {c : BitVec 4} {n : Nat} (h16 : 16 ≤ s.bits.count) (hv : s.NextSymbol 0 s.dcTable (c.zeroExtend 8) n)
    (hn : (n : Int) ≤ s.bits.count) : dcCategory s = .ok c.toNat (s.setBits (s.bits.consume n)) := by
  have hc : (c.zeroExtend 8 : Byte).toNat = c.toNat := BitVec.toNat_setWidth_of_le (by decide)
  have hsmall : decide (15 < c.toNat) = false := decide_eq_false (by omega)
  rw [dcCategory, look_bind, seq_bind_ok (decodeHuffman_symbol h16 hv hn), hc, hsmall]
  rfl

theorem peekFastAc_bind {α : Type} {th : Fin 4} (h : (s.huffAt 1 th).loaded = true) (f : BitVec 16 → Seq α) :
    (peekFastAc th >>= f) s = f (at? (s.fastAc.get th) (s.bits.top 9) 0) s := by
  refine seq_bind_ok ?_ f
  rw [peekFastAc, look_bind, loadedFastAc, if_pos h]

theorem fastAdvance_enough {e : BitVec 16} (h : (fastLen e : Int) ≤ s.bits.count) :
    fastAdvance e s =
      .ok (dezigzag (s.blk.k + fastRun e)) ((s.setBits (s.bits.consume (fastLen e))).pastRun (fastRun e)) := by
  rw [fastAdvance, setK, upd_bind, seq_bind_ok (takeCode_enough (s := s.setBlk { s.blk with k := s.blk.k + fastRun e }) h)]
  rfl

/-! ### The AC loop of a baseline block (R274) -/

theorem acLoop_done (n : Nat) (h : acRound s = .ok () t) (hdone : t.blk.done = true) : acLoop (n + 1) s = .ok () t := by
  rw [acLoop, seq_bind_ok h, look_bind, hdone]
  rfl

theorem acLoop_goes (n : Nat) (h : acRound s = .ok () t) (hopen : t.blk.done = false) (hk : t.blk.k < 64) :
    acLoop (n + 1) s = acLoop n t := by
  rw [acLoop, seq_bind_ok h, look_bind, hopen, decide_eq_false (Nat.not_le.2 hk)]
  rfl

/-- The state after a fast-AC entry `e` of a baseline block (R274). -/
def State.fastTaken (e : BitVec 16) (s : State) : State :=
  { s with
    bits := s.bits.consume (fastLen e)
    blk := { s.blk with
      data := s.blk.data.set (dezigzag (s.blk.k + fastRun e)).val (BitVec.ofInt 16
        (fastValue e * ((s.qt.get s.qTable).get (dezigzag (s.blk.k + fastRun e))).toNat)) (dezigzag (s.blk.k + fastRun e)).isLt
      k := s.blk.k + fastRun e + 1 } }

/-- A round on a fast-AC entry that is not 0. -/
theorem acRound_fast {e : BitVec 16} (h16 : 16 ≤ s.bits.count) (hloaded : (s.huffAt 1 s.acTable).loaded = true)
    (he : at? (s.fastAc.get s.acTable) (s.bits.top 9) 0 = e) (h0 : e ≠ 0) (hlen : (fastLen e : Int) ≤ s.bits.count)
    (hq : s.qtLoaded.get s.qTable = true) :
    acRound s = .ok () (s.fastTaken e) := by
  rw [acRound, seq_bind_ok (fillBelow_enough h16), look_bind, peekFastAc_bind hloaded, he, if_pos h0,
    seq_bind_ok (fastAdvance_enough hlen)]
  exact putCoef_loaded (s := (s.setBits (s.bits.consume (fastLen e))).pastRun (fastRun e)) hq _ _

/-- A round on an end-of-block symbol. -/
theorem acRound_eob {v : Byte} {n : Nat} (h16 : 16 ≤ s.bits.count) (he : at? (s.fastAc.get s.acTable) (s.bits.top 9) 0 = 0)
    (hv : s.NextSymbol 1 s.acTable v n) (hn : (n : Int) ≤ s.bits.count) (hcat : v.toNat % 16 = 0) (hzrl : v ≠ 0xF0) :
    acRound s = .ok () ((s.setBits (s.bits.consume n)).setBlk { s.blk with done := true }) := by
  rw [acRound, seq_bind_ok (fillBelow_enough h16), look_bind, peekFastAc_bind hv.1, he, if_neg (not_not.2 rfl),
    seq_bind_ok (decodeHuffman_symbol h16 hv hn), acSymbol, if_pos hcat, if_neg hzrl]
  rfl

theorem acLoop_eob {v : Byte} {n : Nat} (j : Nat) (h16 : 16 ≤ s.bits.count)
    (he : at? (s.fastAc.get s.acTable) (s.bits.top 9) 0 = 0) (hv : s.NextSymbol 1 s.acTable v n)
    (hn : (n : Int) ≤ s.bits.count) (hcat : v.toNat % 16 = 0) (hzrl : v ≠ 0xF0) :
    acLoop (j + 1) s = .ok () { s with bits := s.bits.consume n, blk := { s.blk with done := true } } :=
  acLoop_done j (acRound_eob h16 he hv hn hcat hzrl) rfl

/-- The loop on a fast-AC entry that is not 0, then an end-of-block symbol. -/
theorem acLoop_fast_eob {e : BitVec 16} {v : Byte} {n : Nat} (j : Nat) (hopen : s.blk.done = false) (hk : s.blk.k + fastRun e < 63)
    (hloaded : (s.huffAt 1 s.acTable).loaded = true) (hq : s.qtLoaded.get s.qTable = true)
    (he : at? (s.fastAc.get s.acTable) (s.bits.top 9) 0 = e) (h0 : e ≠ 0) (hlen : (fastLen e : Int) + 16 ≤ s.bits.count)
    (he3 : at? (s.fastAc.get s.acTable) ((s.bits.consume (fastLen e)).top 9) 0 = 0)
    (hv : (s.setBits (s.bits.consume (fastLen e))).NextSymbol 1 s.acTable v n)
    (hn : (n : Int) ≤ (s.bits.consume (fastLen e)).count) (hcat : v.toNat % 16 = 0) (hzrl : v ≠ 0xF0) :
    acLoop (j + 2) s = .ok () { s.fastTaken e with
      bits := (s.bits.consume (fastLen e)).consume n, blk := { (s.fastTaken e).blk with done := true } } := by
  have hleft : (s.bits.consume (fastLen e)).count = s.bits.count - fastLen e := BitMachine.consume_count (by omega)
  have hcoef := acRound_fast (by omega) hloaded he h0 (by omega) hq
  refine (acLoop_goes (j + 1) hcoef hopen (by exact (by omega : s.blk.k + fastRun e + 1 < 64))).trans ?_
  exact acLoop_eob (s := s.fastTaken e) j (by exact (by omega : 16 ≤ (s.bits.consume (fastLen e)).count)) he3 hv hn hcat hzrl

/-- The state after the DC symbol of a baseline block, a code of `n` bits for category `c` (R274). -/
def State.dcTaken (n c : Nat) (s : State) : State :=
  { s.withDc s.blockComp ((s.setBits (s.bits.consume n)).nextDc c) with
    bits := (s.bits.consume n).consume c
    blk := { s.blk with
      data := dcBlock ((s.setBits (s.bits.consume n)).nextDc c) ((s.qt.get s.qTable).get 0), k := 1, done := false } }

theorem State.decodes_dcTaken (s : State) (n c : Nat) : s.Decodes (s.dcTaken n c) :=
  .trans (t := s.setBits (s.bits.consume n)) (.of_comp rfl rfl) <|
    ((s.setBits (s.bits.consume n)).decodes_predicted c).trans (.of_comp rfl rfl)

theorem blkBaseline_dcTaken {c : BitVec 4} {n : Nat} (h16 : 16 ≤ s.bits.count)
    (hv : s.NextSymbol 0 s.dcTable (c.zeroExtend 8) n) (hq : s.qtLoaded.get s.qTable = true)
    (hn : (n : Int) + c.toNat ≤ s.bits.count) : blkBaseline s = acLoop 64 (s.dcTaken n c.toNat) := by
  have hleft : (s.bits.consume n).count = s.bits.count - n := BitMachine.consume_count (by omega)
  have hdiff : (c.toNat : Int) ≤ (s.bits.consume n).count := by omega
  rw [blkBaseline, seq_bind_ok (fillBelow_enough h16), seq_bind_ok (dcCategory_symbol h16 hv (by omega)),
    seq_bind_ok (dcBaseline_enough (s := s.setBits (s.bits.consume n)) hdiff hq)]
  rfl

end

/-- Settles O50: the DC symbol, then one round or two of the AC loop. -/
theorem baselineBlocks : Obligations.BaselineBlocks := by
  intro s c n1 n b1 v diff dc Q s2 block e h16 h32 hsym hq hbits
  have hdc : dc = (s.unheld.setBits b1).nextDc c.toNat := by
    rw [State.nextDc, magnitude_category, BitMachine.top_eq_div]
    rfl
  have hblock : block = dcBlock ((s.unheld.setBits b1).nextDc c.toNat) (Q.get 0) := congrArg (dcBlock · (Q.get 0)) hdc
  have hb1 : b1.count = s.bits.count - n1 := BitMachine.consume_count (by omega)
  have hb2 : s2.bits.count = b1.count - c.toNat := BitMachine.consume_count (by omega)
  have hdec := s.unheld.decodes_dcTaken n1 c.toNat
  have hac : (s.unheld.dcTaken n1 c.toNat).acTable = s.acTable := hdec.acTable_eq
  have hqt : (s.unheld.dcTaken n1 c.toNat).qTable = s.qTable := hdec.qTable_eq
  have hstart := blkBaseline_dcTaken (s := s.unheld) h16 hsym hq (by exact (by omega : (n1 : Int) + c.toNat ≤ s.bits.count))
  rw [hblock, hdc]
  constructor
  · intro v2 n2 he hv2 hcat hzrl hn2
    have hend := acLoop_eob (s := s.unheld.dcTaken n1 c.toNat) (v := v2) (n := n2) 63
      (by exact (by omega : 16 ≤ s2.bits.count)) (by rw [hac]; exact he)
      (by rw [hac]; exact hv2.of_eq rfl rfl) hn2 hcat hzrl
    exact runOp_ok (hstart.trans hend)
  · intro v2 n2 he hloaded hfast s3 he3 hv2 hcat hzrl hn2 z
    have hrun : 1 + fastRun e < 63 := Nat.lt_of_lt_of_le (Nat.add_lt_add_left (BitVec.isLt _) 1) (by decide)
    have hlen : (fastLen e : Int) + 16 ≤ s2.bits.count := by
      clear_value e
      omega
    have hend := acLoop_fast_eob (s := s.unheld.dcTaken n1 c.toNat) (e := e) (v := v2) (n := n2) 62 rfl
      hrun (by rw [hac]; exact hloaded) (by rw [hqt]; exact hq)
      (by rw [hac]; rfl) he hlen (by rw [hac]; exact he3)
      (by rw [hac]; exact hv2.of_eq rfl rfl) hn2 hcat hzrl
    rw [State.fastTaken, hqt] at hend
    rw [show 2 + fastRun e = 1 + fastRun e + 1 from Nat.add_right_comm 1 1 (fastRun e)]
    exact runOp_ok (hstart.trans hend)

/-! ### DC blocks of a progressive scan (R276, R277) -/

/-- Coefficients of one block cleared: they read as 0, every other one as before. -/
theorem clearCoefs_ok {c : Fin 4} {b : Nat} (zs : List Nat) {s : State} (h : ∀ z ∈ zs, s.inCoef c b z = true) :
    ∃ m, forEach zs (fun z => coefWrite c b z 0) s = .ok () (s.withCoef c m) ∧
      ∀ d b' i, (s.withCoef c m).coefficient d b' i = if d = c ∧ b' = b ∧ i ∈ zs then some 0 else s.coefficient d b' i := by
  induction zs generalizing s with
  | nil =>
    refine ⟨(s.comp.get c).coef, ?_, fun d b' i => ?_⟩ <;> rw [s.withCoef_self]
    · rfl
    · exact (if_neg (by simp)).symm
  | cons z zs ih =>
    have hz := h z List.mem_cons_self
    obtain ⟨m, hrun, hreads⟩ := ih (s := s.writeCoef c b z 0) fun i hi =>
      (s.inCoef_withCoef ..).trans (h i (List.mem_cons_of_mem z hi))
    rw [State.writeCoef, State.withCoef_withCoef] at hrun hreads
    refine ⟨m, ?_, fun d b' i => ?_⟩
    · rw [forEach_cons, seq_bind_ok (coefWrite_ok hz 0)]
      exact hrun
    · rw [hreads]
      refine (congrArg (ite _ _) (State.coefficient_writeCoef hz 0 d b' i)).trans ?_
      simp only [List.mem_cons]
      grind

/-- The coefficients of a block inside the plane are inside the plane. -/
theorem State.inCoef_of_lt {s : State} {c : Fin 4} {b i j : Nat} (h : s.inCoef c b i = true) (hj : j < 64) : s.inCoef c b j = true := by
  simp only [State.inCoef, Bool.and_eq_true, decide_eq_true_eq] at h ⊢
  exact ⟨h.1, hj⟩

section
variable {s : State}

theorem State.Decodes.dcTable_eq {t : State} (h : s.Decodes t) : t.dcTable = s.dcTable := by
  rw [State.dcTable, h.blockComp_eq, h.get_eq]
  rfl

/-- The predictor does not depend on the coefficient planes. -/
theorem State.nextDc_withCoef (s : State) (m : Mem 16) (c : Nat) : (s.withCoef s.blockComp m).nextDc c = s.nextDc c := by
  have hdc : ((s.withCoef s.blockComp m).comp.get s.blockComp).dcPred = (s.comp.get s.blockComp).dcPred :=
    (congrArg Comp.dcPred (s.withCoef_get_same s.blockComp m) :)
  exact congrArg (fun v : BitVec 32 => wrap32 (v.toInt + magnitude c (s.bits.top c))) hdc

/-- Of two planes written around a DC difference the second stays. -/
theorem State.withCoef_predicted_withCoef (s : State) (m m' : Mem 16) (c : Nat) :
    ((s.withCoef s.blockComp m).predicted c).withCoef s.blockComp m' = (s.predicted c).withCoef s.blockComp m' := by
  have hget : (s.withCoef s.blockComp m).comp.get (s.withCoef s.blockComp m).blockComp = _ := s.withCoef_get_same _ m
  refine (State.predicted_withCoef (s.withCoef s.blockComp m) c m').trans ?_
  rw [State.nextDc_withCoef, State.predicted_withCoef, hget]
  exact congrArg (fun u : State => { u with bits := s.bits.consume c }) (s.setComp_setComp _ _ _)

theorem State.blockNum_withCoef (s : State) (c : Fin 4) (m : Mem 16) : (s.withCoef c m).blockNum = s.blockNum := by
  have hget (d : Fin 4) : ((s.withCoef c m).comp.get d).h = (s.comp.get d).h ∧ ((s.withCoef c m).comp.get d).v = (s.comp.get d).v ∧
      ((s.withCoef c m).comp.get d).coeffW = (s.comp.get d).coeffW := by
    rw [State.withCoef_get]
    split <;> simp_all
  simp only [State.blockNum, State.blockRow, State.blockCol, hget]
  rfl

/-- The DC symbol of a first scan on a plane `m`. -/
theorem dcFirstSymbol_withCoef {c : Nat} (m : Mem 16) (h : (c : Int) ≤ s.bits.count)
    (hin : s.inCoef s.blockComp s.blockNum 0 = true) :
    ∃ m', dcFirstSymbol c (s.withCoef s.blockComp m) = .ok () ((s.predicted c).withCoef s.blockComp m') ∧
      ∀ d b z, ((s.predicted c).withCoef s.blockComp m').coefficient d b z =
        if d = s.blockComp ∧ b = s.blockNum ∧ z = 0 then
          some (BitVec.ofInt 16 ((s.nextDc c).toInt * 2 ^ s.scan.succLow.toNat))
        else (s.withCoef s.blockComp m).coefficient d b z := by
  have hnum := s.blockNum_withCoef s.blockComp m
  have hin' := (s.inCoef_withCoef s.blockComp m s.blockComp s.blockNum 0).trans hin
  have hrun := dcFirstSymbol_enough (s := s.withCoef s.blockComp m) (c := c) h (by rw [hnum]; exact hin')
  rw [hnum, s.nextDc_withCoef] at hrun
  have hplane := s.withCoef_predicted_withCoef m
  refine ⟨_, hrun.trans (congrArg _ (hplane _ c)), fun d b z => ?_⟩
  rw [← hplane]
  refine (State.coefficient_writeCoef (((State.decodes_predicted _ c).inCoef_eq ..).trans hin') _ d b z).trans ?_
  rw [State.coefficient_predicted]
  rfl

/-- BLK_DC_FIRST on its symbol, of `n` bits and category `c`, with the bits there. -/
theorem blkDcFirst_symbol {c : BitVec 4} {n : Nat} (hband : s.scan.specEnd = 0)
    (hin : s.inCoef s.blockComp s.blockNum 0 = true) (h16 : 16 ≤ s.bits.count)
    (hv : s.NextSymbol 0 s.dcTable (c.zeroExtend 8) n) (hn : (n : Int) + c.toNat ≤ s.bits.count) :
    ∃ m, blkDcFirst s = .ok () (((s.setBits (s.bits.consume n)).predicted c.toNat).withCoef s.blockComp m) ∧
      ∀ d b z, z < 64 → (((s.setBits (s.bits.consume n)).predicted c.toNat).withCoef s.blockComp m).coefficient d b z =
        if d = s.blockComp ∧ b = s.blockNum then
          some (if z = 0 then
            BitVec.ofInt 16 (((s.setBits (s.bits.consume n)).nextDc c.toNat).toInt * 2 ^ s.scan.succLow.toNat) else 0)
        else s.coefficient d b z := by
  obtain ⟨m, hclear, hreads⟩ := clearCoefs_ok (List.range 64) fun z hz => State.inCoef_of_lt hin (List.mem_range.1 hz)
  have hleft : (s.bits.consume n).count = s.bits.count - n := BitMachine.consume_count (by omega)
  have hdc : (s.withCoef s.blockComp m).dcTable = s.dcTable :=
    (congrArg (fun r : Comp => idx2 r.hd) (s.withCoef_get_same s.blockComp m) :)
  have hcat : dcCategory (s.withCoef s.blockComp m) = .ok c.toNat ((s.setBits (s.bits.consume n)).withCoef s.blockComp m) :=
    dcCategory_symbol h16 (by rw [hdc]; exact hv.of_eq rfl rfl) (by exact (by omega : (n : Int) ≤ s.bits.count))
  obtain ⟨m', hfirst, hcoef⟩ := dcFirstSymbol_withCoef (s := s.setBits (s.bits.consume n)) (c := c.toNat) m
    (by exact (by omega : (c.toNat : Int) ≤ (s.bits.consume n).count)) hin
  refine ⟨m', ?_, fun d b z hz => (hcoef d b z).trans ?_⟩
  · rw [blkDcFirst, get_bind, hband, check_bind, seq_bind_ok (fillBelow_enough h16), seq_bind_ok hclear, seq_bind_ok hcat]
    exact hfirst
  · refine (congrArg (ite _ _) (hreads d b z)).trans ?_
    simp only [List.mem_range, hz, and_true]
    by_cases hblk : d = s.blockComp ∧ b = s.blockNum
    · rw [if_pos hblk, if_pos hblk, apply_ite some]
      exact if_congr ⟨fun h => h.2.2, fun h => ⟨hblk.1, hblk.2, h⟩⟩ rfl rfl
    · rw [if_neg hblk, if_neg hblk]
      exact if_neg fun h => hblk ⟨h.1, h.2.1⟩

end

/-- Settles O51: the cleared block and its DC symbol; the bit added to coefficient 0. -/
theorem progressiveDcBlocks : Obligations.ProgressiveDcBlocks := by
  refine ⟨fun s c n1 hband hin h16 _ hsym hbits => ?_, fun s p hband hp h16 _ => ?_, fun s hband => ?_⟩
  · intro n b1 v diff dc
    have hdc : dc = (s.unheld.setBits b1).nextDc c.toNat := by
      rw [State.nextDc, magnitude_category, BitMachine.top_eq_div]
      rfl
    obtain ⟨m, hrun, hreads⟩ := blkDcFirst_symbol (s := s.unheld) hband hin h16 hsym hbits
    rw [hdc]
    refine ⟨_, runOp_ok hrun, ?_, hreads⟩
    exact (State.withCoef_own ..).trans ((s.unheld.setBits b1).predicted_withCoef _ _)
  · have hbit := getBit_enough (s := s.unheld) (by exact (by omega : 1 ≤ s.bits.count))
    have hrun : blkDcRefine s.unheld = .ok () ((s.unheld.setBits (s.bits.consume 1)).dcRefined p (s.bits.codeBuffer.getLsbD 31)) := by
      rw [blkDcRefine, get_bind, State.unheld_scan, hband, check_bind, if_neg (by decide),
        seq_bind_ok (fillBelow_enough (s := s.unheld) h16)]
      exact dcRefineWith_ok hp hbit
    exact ⟨_, runOp_ok hrun, State.withCoef_own .., fun m b z _ =>
      State.coefficient_dcRefined (s := s.unheld.setBits (s.bits.consume 1)) hp m b z⟩
  · have hne : (s.scan.specEnd != 0) = true := bne_iff_ne.2 hband
    constructor
    · refine runOp_raise ?_
      rw [blkDcFirst, get_bind, check_bind]
      exact if_pos hne
    · refine runOp_raise ?_
      rw [blkDcRefine, get_bind, check_bind]
      exact if_pos hne

/-! ### A refinement block inside an EOB run (R280) -/

section
variable {s t : State} {co : Nat → BitVec 16} {k last : Nat} {p : BitVec 16}

/-- The state one block further in the EOB run (R278, R280). -/
def State.runCounted (s : State) : State := s.setScan { s.scan with eobRun := s.scan.eobRun - 1 }

theorem blkAcFirst_inRun (h : s.scan.eobRun ≠ 0) : blkAcFirst s = .ok () s.runCounted := by
  rw [blkAcFirst, look_bind, if_pos h]
  rfl

theorem blkAcRefine_inRun (h : s.scan.eobRun ≠ 0) : blkAcRefine s = refineBand s.band s.runCounted := by
  rw [blkAcRefine, look_bind, if_pos h]
  rfl

theorem State.band_eq_range' (s : State) :
    s.band = List.range' s.scan.specStart.toNat (s.scan.specEnd.toNat + 1 - s.scan.specStart.toNat) :=
  List.range'_eq_map_range.symm

/-- A zero coefficient of the band is left, a nonzero one takes its correction bit. -/
theorem refineBand_cons (ks : List Nat) (hp : s.coefficient s.blockComp s.blockNum (dezigzag k).val = some p)
    (hcount : p ≠ 0 → 1 ≤ s.bits.count) : refineBand (k :: ks) s = refineBand ks (s.passed (dezigzag k) p) := by
  have hread : blockCoef (dezigzag k) s = .ok p.toInt s := by
    rw [blockCoef, get_bind]
    exact seq_bind_ok (coefRead_ok hp) _
  rw [refineBand, seq_bind_ok hread]
  refine seq_bind_ok (a := ()) ?_ _
  by_cases h0 : p = 0
  · rw [State.passed, if_pos h0, h0]
    rfl
  · have hnz : (p.toInt != 0) = true := bne_iff_ne.2 fun h => h0 (BitVec.eq_of_toInt_eq h)
    rw [hnz]
    exact refineBit_ok hp h0 (hcount h0)

theorem refineBand_zeros (ks : List Nat) (h : ∀ k ∈ ks, s.coefficient s.blockComp s.blockNum (dezigzag k).val = some 0) :
    refineBand ks s = .ok () s := by
  induction ks with
  | nil => rfl
  | cons k ks ih =>
    rw [refineBand_cons ks (h k List.mem_cons_self) (absurd rfl), State.passed, if_pos rfl]
    exact ih fun j hj => h j (List.mem_cons_of_mem k hj)

/-- A correction changes its coefficient if its bit is 1 and bit `succ_low` of the coefficient is 0 (R283). -/
theorem State.coefficient_withCorrection_changed {z : Fin 64} {b : Bool} (hp : s.coefficient s.blockComp s.blockNum z.val = some p)
    (m : Fin 4) (b' y : Nat) :
    (s.withCorrection z p b).coefficient m b' y =
      if b = true ∧ p.getLsbD s.scan.succLow.toNat = false ∧ m = s.blockComp ∧ b' = s.blockNum ∧ y = z.val then
        some (BitVec.ofInt 16 (if 0 < p.toInt then p.toInt + 2 ^ s.scan.succLow.toNat else p.toInt - 2 ^ s.scan.succLow.toNat))
      else s.coefficient m b' y := by
  rw [State.coefficient_withCorrection hp, corrected]
  by_cases hhere : m = s.blockComp ∧ b' = s.blockNum ∧ y = z.val
  · rw [if_pos hhere, apply_ite some]
    obtain ⟨rfl, rfl, rfl⟩ := hhere
    rw [hp]
    exact if_congr ⟨fun h => ⟨h.1, h.2, rfl, rfl, rfl⟩, fun h => ⟨h.1, h.2.1⟩⟩ rfl rfl
  · rw [if_neg hhere, if_neg fun h => hhere h.2.2]

/-- A band of one nonzero coefficient. -/
theorem blkAcRefine_single (hrun : s.scan.eobRun ≠ 0) (hone : s.scan.specStart = s.scan.specEnd) (hcount : 1 ≤ s.bits.count)
    (h0 : p ≠ 0) (hp : s.coefficient s.blockComp s.blockNum (dezigzag s.scan.specStart.toNat).val = some p) :
    blkAcRefine s = .ok () ((s.runCounted.setBits (s.bits.consume 1)).withCorrection (dezigzag s.scan.specStart.toNat) p
      (s.bits.codeBuffer.getLsbD 31)) := by
  have hband : s.band = [s.scan.specStart.toNat] := by
    rw [State.band_eq_range', hone, Nat.add_sub_cancel_left]
    rfl
  have hstep := refineBand_cons (s := s.runCounted) [] hp fun _ => hcount
  rw [State.passed, if_neg h0] at hstep
  rw [blkAcRefine_inRun hrun, hband]
  exact hstep

/-- Bits taken and a plane written, in one record. -/
theorem State.refinedTo_record (s : State) (n : Nat) (m : Mem 16) :
    s.refinedTo n s.blk.k m = { s.withCoef s.blockComp m with bits := s.bits.consume n } := rfl

/-- Each nonzero coefficient of the band takes a bit of its own. -/
theorem refineBand_band (hlast : last ≤ 63) (hband : s.BandIs co k last) (hcount : (nonzeros co k (last + 1) : Int) ≤ s.bits.count)
    (h32 : s.bits.count ≤ 32) :
    ∃ t m, refineBand (List.range' k (last + 1 - k)) s = .ok () t ∧ t = s.refinedTo (nonzeros co k (last + 1)) s.blk.k m ∧
      s.Refined co k last (last + 1) 0 0 t := by
  induction hn : last + 1 - k generalizing s k with
  | zero =>
    have hk : last + 1 ≤ k := by omega
    refine ⟨s, (s.comp.get s.blockComp).coef, rfl, ?_, State.refined_past hk⟩
    rw [nonzeros_of_le hk, State.refinedTo_self]
  | succ n ih =>
    have hk : k ≤ last := by omega
    have hp := hband k (Nat.le_refl k) hk
    have hsplit := nonzeros_of_lt (co := co) (by omega : k < last + 1)
    have hrest := nonzeros_le (co := co) (k := k + 1) (e := last + 1)
    have hbits : (s.passed (dezigzag k) (co k)).bits.count = s.bits.count - (if co k = 0 then 0 else 1 : Nat) :=
      (congrArg BitMachine.count (s.passed_bits _ _)).trans (BitMachine.consume_count (by omega))
    obtain ⟨t, m, hrun, ht, hrefined⟩ := ih (hband.passed hlast hk) (by omega) (by omega) (by omega)
    refine ⟨t, m, ?_, ?_, hrefined.pass hlast hk (by omega) hband (by omega)⟩
    · rw [List.range'_succ, refineBand_cons _ hp fun h0 => by rw [if_neg h0] at hsplit; omega]
      exact hrun
    · rw [ht, State.passed_refinedTo, State.passed_blk, hsplit]

end

/-! ### A symbol of a refinement block (R280, R281) -/

section
variable {s t : State} {v : Byte} {n : Nat}

theorem symByte_toNat (r c : BitVec 4) : (symByte r c).toNat = 16 * r.toNat + c.toNat := by
  have happend : (symByte r c).toNat = r.toNat <<< 4 ||| c.toNat := BitVec.toNat_append r c
  rw [happend, ← Nat.shiftLeft_add_eq_or_of_lt c.isLt, Nat.shiftLeft_eq, Nat.mul_comm]

/-- The symbol of run `r` and category `c` (R281). -/
theorem acrSymbol_symByte (r c : BitVec 4) :
    acrSymbol (symByte r c) =
      if c = 0 then (if r = 15 then acrZrl else acrEobrun r.toNat)
      else if c = 1 then acrCoef r.toNat else raise .badHuffmanCode := by
  have hcat : (symByte r c).toNat % 16 = c.toNat := by rw [symByte_toNat]; omega
  have hrun : (symByte r c).toNat / 16 = r.toNat := by rw [symByte_toNat]; omega
  have h0 : c.toNat = 0 ↔ c = 0 := (BitVec.toNat_eq (y := 0)).symm
  have h1 : c.toNat = 1 ↔ c = 1 := (BitVec.toNat_eq (y := 1)).symm
  rw [acrSymbol, hcat, hrun, if_congr h0 rfl rfl, if_congr h1 rfl rfl]
  by_cases hc : c = 0
  · rw [if_pos hc, if_pos hc, if_congr (symByte_eq_F0.trans (and_iff_left hc)) rfl rfl]
  · rw [if_neg hc, if_neg hc]

/-- A word of a refinement symbol has the meaning of its symbol. -/
theorem exec_acrSym {i : Instr} (h : decode (.acrSym v) = .ok i) (s : State) : exec i s = runOp (acrSymbol v) s := by
  obtain ⟨r, c, rfl⟩ := exists_symByte v
  rw [decode_acrSym] at h
  rw [acrSymbol_symByte]
  obtain ⟨hr, hc, rfl⟩ | ⟨hr, hc, rfl⟩ | ⟨hc, h⟩ := runSymbol_ok h
  · rw [if_pos hc, if_pos hr]
    rfl
  · rw [if_pos hc, if_neg hr]
    rfl
  · rw [if_neg hc]
    split at h <;> rename_i hc1 <;> cases h
    · rw [if_pos hc1]
      rfl
    · rw [if_neg hc1]
      rfl

/-- The state at the head of the band of a block. -/
def State.atBand (s : State) : State := { s with blk := { s.blk with k := s.scan.specStart.toNat, done := false } }

theorem blkAcRefine_symbols (h : s.scan.eobRun = 0) : blkAcRefine s = acrLoop 256 s.atBand := by
  rw [blkAcRefine, look_bind, if_neg (not_not.2 h)]
  rfl

theorem blkAcFirst_symbols (h : s.scan.eobRun = 0) : blkAcFirst s = acpLoop 256 s.atBand := by
  rw [blkAcFirst, look_bind, if_neg (not_not.2 h)]
  rfl

theorem acrRound_symbol (h16 : 16 ≤ s.bits.count) (hv : s.NextSymbol 1 s.acTable v n) (hn : (n : Int) ≤ s.bits.count) :
    acrRound s = acrSymbol v (s.setBits (s.bits.consume n)) := by
  rw [acrRound, look_bind, seq_bind_ok (decodeHuffman_symbol h16 hv hn)]

theorem acrLoop_last (j : Nat) (h : acrRound s = .ok () t) (hpast : s.scan.specEnd.toNat < t.blk.k) : acrLoop (j + 1) s = .ok () t := by
  have hband : t.scan.specEnd = s.scan.specEnd := (congrArg (fun u : State => u.scan.specEnd) ((decoding_acrRound s).ok h).rest :)
  have hstop : t.pastBand = true := decide_eq_true (by rwa [hband])
  rw [acrLoop, seq_bind_ok h, look_bind, hstop]
  rfl

/-- Only zero coefficients up to the end of the band, fewer than the run. -/
theorem advance_zeros {w : Int} {r : Nat} (m : Nat) (hband : ∀ k, s.blk.k ≤ k → k ≤ s.scan.specEnd.toNat →
      s.coefficient s.blockComp s.blockNum (dezigzag k).val = some 0)
    (hk : s.blk.k ≤ s.scan.specEnd.toNat + 1) (hm : s.scan.specEnd.toNat + 1 - s.blk.k ≤ m)
    (hr : s.scan.specEnd.toNat + 1 - s.blk.k ≤ r) :
    advance w m r s = .ok () (s.setBlk { s.blk with k := s.scan.specEnd.toNat + 1 }) := by
  induction m generalizing s r with
  | zero =>
    have hend : s.scan.specEnd.toNat + 1 = s.blk.k := by omega
    rw [hend]
    rfl
  | succ m ih =>
    rcases Nat.eq_or_lt_of_le hk with hend | hlt
    · rw [advance_past (by omega), ← hend]
      rfl
    · have hle := Nat.lt_succ_iff.1 hlt
      rw [advance_next hle (hband _ (Nat.le_refl _) hle) (absurd rfl), if_neg (by omega), if_pos rfl, State.passed, if_pos rfl]
      exact ih (s := s.pastRun 0) (fun k hk' => hband k (Nat.le_of_succ_le hk')) hlt
        (by exact (by omega : s.scan.specEnd.toNat + 1 - (s.blk.k + 1) ≤ m))
        (by exact (by omega : s.scan.specEnd.toNat + 1 - (s.blk.k + 1) ≤ r - 1))

/-- An EOB symbol of a run (R278, R281). -/
theorem eobSymbol {r : Nat} (hr : r < 15) :
    acpSymbol (BitVec.ofNat 8 (16 * r)) = acpEobrun r ∧ acrSymbol (BitVec.ofNat 8 (16 * r)) = acrEobrun r := by
  have hval : (BitVec.ofNat 8 (16 * r)).toNat = 16 * r := Nat.mod_eq_of_lt (by omega)
  have hcat : 16 * r % 16 = 0 := Nat.mul_mod_right 16 r
  have hrun : 16 * r / 16 = r := Nat.mul_div_cancel_left r (by decide)
  have hzrl : BitVec.ofNat 8 (16 * r) ≠ 0xF0 := fun h => by
    have h240 := congrArg BitVec.toNat h
    rw [hval] at h240
    exact absurd h240 (by exact (by omega : 16 * r ≠ 240))
  rw [acpSymbol, acrSymbol, hval, hcat, hrun, if_pos rfl, if_pos rfl, if_neg hzrl, if_neg hzrl]
  exact ⟨rfl, rfl⟩

end

/-! ### A round of a block of a first scan (R278) -/

section
variable {s t : State} {v : Byte} {n : Nat}

theorem acpLoop_last (j : Nat) (h : acpRound s = .ok () t) (hstop : (t.blk.done || t.pastBand) = true) :
    acpLoop (j + 1) s = .ok () t := by
  rw [acpLoop, seq_bind_ok h, look_bind, hstop]
  rfl

theorem acpEobrun_taken {r : Nat} (h : (r : Int) ≤ s.bits.count) :
    acpEobrun r s = .ok () { s with
      bits := s.bits.consume r
      scan := { s.scan with eobRun := BitVec.ofNat 32 (2 ^ r + s.bits.top r - 1) }
      blk := { s.blk with done := true } } := acpEobrun_enough h

theorem acpRound_symbol (h16 : 16 ≤ s.bits.count) (he : at? (s.fastAc.get s.acTable) (s.bits.top 9) 0 = 0)
    (hv : s.NextSymbol 1 s.acTable v n) (hn : (n : Int) ≤ s.bits.count) :
    acpRound s = acpSymbol v (s.setBits (s.bits.consume n)) := by
  rw [acpRound, seq_bind_ok (fillBelow_enough h16), look_bind, peekFastAc_bind hv.1, he, if_neg (not_not.2 rfl),
    seq_bind_ok (decodeHuffman_symbol h16 hv hn)]

theorem acpRound_fast {e : BitVec 16} (h16 : 16 ≤ s.bits.count) (hloaded : (s.huffAt 1 s.acTable).loaded = true)
    (he : at? (s.fastAc.get s.acTable) (s.bits.top 9) 0 = e) (h0 : e ≠ 0)
    (hin : s.inCoef s.blockComp s.blockNum (dezigzag (s.blk.k + fastRun e)).val = true) :
    acpRound s = .ok () (({ s with bits := s.bits.consume (fastLen e), blk := { s.blk with k := s.blk.k + fastRun e + 1 } } : State).writeCoef
      s.blockComp s.blockNum (dezigzag (s.blk.k + fastRun e)).val (BitVec.ofInt 16 (fastValue e * 2 ^ s.scan.succLow.toNat))) := by
  have hlen : fastLen e < 16 := BitVec.isLt _
  rw [acpRound, seq_bind_ok (fillBelow_enough h16), look_bind, peekFastAc_bind hloaded, he, if_pos h0,
    seq_bind_ok (fastAdvance_enough (by omega)), look_bind]
  refine (putBlockCoef_ok (s := (s.setBits (s.bits.consume (fastLen e))).pastRun (fastRun e)) hin _).trans ?_
  rw [trunc16_lowBit]
  rfl

end

/-- The symbols of a refinement block of no run (R280): what the first one does, when it takes the block past its band. -/
theorem blkAcRefine_symbol {s t : State} {v : Byte} {n : Nat} (hrun : s.scan.eobRun = 0) (h16 : 16 ≤ s.bits.count)
    (hv : s.NextSymbol 1 s.acTable v n) (hn : (n : Int) ≤ s.bits.count)
    (h : acrSymbol v (s.atBand.setBits (s.bits.consume n)) = .ok () t) (hpast : s.scan.specEnd.toNat < t.blk.k) :
    blkAcRefine s = .ok () t := by
  rw [blkAcRefine_symbols hrun]
  exact acrLoop_last (s := s.atBand) 255 ((acrRound_symbol (s := s.atBand) h16 (hv.of_eq rfl rfl) hn).trans h) hpast

section
variable {s : State} {r n : Nat} (hrun : s.scan.eobRun = 0) (h16 : 16 ≤ s.bits.count)
include hrun h16

/-- An EOB symbol of `n` bits at the head of a block of a first scan (R278, R279). -/
theorem blkAcFirst_eob (hr : r < 15) (hv : s.NextSymbol 1 s.acTable (BitVec.ofNat 8 (16 * r)) n)
    (hn : (n : Int) + r ≤ s.bits.count) (he : at? (s.fastAc.get s.acTable) (s.bits.top 9) 0 = 0) :
    blkAcFirst s = .ok () { s with
      bits := (s.bits.consume n).consume r
      scan := { s.scan with eobRun := BitVec.ofNat 32 (2 ^ r + (s.bits.consume n).top r - 1) }
      blk := { s.blk with k := s.scan.specStart.toNat, done := true } } := by
  have hleft : (s.bits.consume n).count = s.bits.count - n := BitMachine.consume_count (by omega)
  have hround := acpRound_symbol (s := s.atBand) h16 he (hv.of_eq rfl rfl) (by exact (by omega : (n : Int) ≤ s.bits.count))
  have hsym := acpEobrun_taken (s := { s with bits := s.bits.consume n, blk := s.atBand.blk })
    (by exact (by omega : (r : Int) ≤ (s.bits.consume n).count))
  rw [(eobSymbol hr).1] at hround
  rw [blkAcFirst_symbols hrun]
  exact acpLoop_last 255 (hround.trans hsym) rfl

/-- An EOB symbol of `n` bits at the head of a refinement block whose band is all 0 (R280, R281). -/
theorem blkAcRefine_eob (hr : r < 15) (hv : s.NextSymbol 1 s.acTable (BitVec.ofNat 8 (16 * r)) n)
    (hn : (n : Int) + r ≤ s.bits.count) (hle : s.scan.specStart.toNat ≤ s.scan.specEnd.toNat) (hlast : s.scan.specEnd.toNat ≤ 63)
    (hzero : ∀ k, s.scan.specStart.toNat ≤ k → k ≤ s.scan.specEnd.toNat →
      s.coefficient s.blockComp s.blockNum (dezigzag k).val = some 0) :
    blkAcRefine s = .ok () { s with
      bits := (s.bits.consume n).consume r
      scan := { s.scan with eobRun := BitVec.ofNat 32 (2 ^ r - 1 + (s.bits.consume n).top r) }
      blk := { s.blk with k := s.scan.specEnd.toNat + 1, done := false } } := by
  have hleft : (s.bits.consume n).count = s.bits.count - n := BitMachine.consume_count (by omega)
  have hsym := acrEobrun_enough (s := { s with bits := s.bits.consume n, blk := s.atBand.blk })
    (by exact (by omega : (r : Int) ≤ (s.bits.consume n).count))
  have hwalk := advance_zeros (w := 0) (r := 64) (s := { s with
        bits := (s.bits.consume n).consume r
        scan := { s.scan with eobRun := BitVec.ofNat 32 (2 ^ r - 1 + (s.bits.consume n).top r) }
        blk := s.atBand.blk }) 256 hzero (by exact Nat.le_succ_of_le hle)
    (by exact (by omega : s.scan.specEnd.toNat + 1 - s.scan.specStart.toNat ≤ 256))
    (by exact (by omega : s.scan.specEnd.toNat + 1 - s.scan.specStart.toNat ≤ 64))
  refine blkAcRefine_symbol hrun h16 hv (by omega) ?_ (Nat.lt_succ_self _)
  rw [(eobSymbol hr).2]
  exact hsym.trans hwalk

/-- A fast-AC entry that ends the band of a block of a first scan (R278). -/
theorem blkAcFirst_fast {e : BitVec 16} (hloaded : (s.huffAt 1 s.acTable).loaded = true)
    (he : at? (s.fastAc.get s.acTable) (s.bits.top 9) 0 = e) (h0 : e ≠ 0)
    (hpast : s.scan.specEnd.toNat ≤ s.scan.specStart.toNat + fastRun e)
    (hin : s.inCoef s.blockComp s.blockNum (dezigzag (s.scan.specStart.toNat + fastRun e)).val = true) :
    ∃ m, blkAcFirst s = .ok () (({ s with
          bits := s.bits.consume (fastLen e)
          blk := { s.blk with k := s.scan.specStart.toNat + fastRun e + 1, done := false } } : State).withCoef s.blockComp m) ∧
      ∀ d b z, (({ s with
          bits := s.bits.consume (fastLen e)
          blk := { s.blk with k := s.scan.specStart.toNat + fastRun e + 1, done := false } } : State).withCoef
            s.blockComp m).coefficient d b z =
        if d = s.blockComp ∧ b = s.blockNum ∧ z = (dezigzag (s.scan.specStart.toNat + fastRun e)).val then
          some (BitVec.ofInt 16 (fastValue e * 2 ^ s.scan.succLow.toNat))
        else s.coefficient d b z := by
  have hround := acpRound_fast (s := s.atBand) h16 hloaded he h0 hin
  have hloop := acpLoop_last 255 hround (decide_eq_true (Nat.lt_succ_of_le hpast))
  rw [blkAcFirst_symbols hrun]
  exact ⟨_, hloop, State.coefficient_writeCoef hin _⟩

end

/-- Settles O52: inside a run the band alone; else the first symbol, which ends the block. -/
theorem acBlocks : Obligations.AcBlocks := by
  refine ⟨fun s hrun => runOp_ok (blkAcFirst_inRun (s := s.unheld) hrun), fun s hrun hzero => runOp_ok ?_,
    fun s p hrun hone hcount h32 hp0 => ?_, fun s co => ?_, fun s t rs n1 i hrun h16 h32 hsym hn hdec hexec hin hpast => ?_,
    fun s r n1 hrun hr h16 h32 hsym hn => ?_, fun s => ?_⟩
  · rw [blkAcRefine_inRun (s := s.unheld) hrun]
    refine refineBand_zeros (s := s.unheld.runCounted) _ fun k hk => ?_
    rw [State.band_eq_range', List.mem_range'_1] at hk
    obtain ⟨hle, hlt⟩ : s.scan.specStart.toNat ≤ k ∧
      k < s.scan.specStart.toNat + (s.scan.specEnd.toNat + 1 - s.scan.specStart.toNat) := hk
    exact hzero k hle (by omega)
  · intro z0 hp
    refine ⟨_, runOp_ok (blkAcRefine_single (s := s.unheld) hrun hone hcount hp0 hp), State.withCoef_own .., fun m b z _ => ?_⟩
    exact State.coefficient_withCorrection_changed (s := s.unheld.runCounted.setBits (s.bits.consume 1)) hp m b z
  · intro first last bits hrun hlast hband hcount h32
    obtain ⟨t, m, hwalk, ht, hrefined⟩ := refineBand_band (s := s.unheld.runCounted) hlast hband hcount h32
    refine ⟨t, runOp_ok ?_, ?_, hrefined⟩
    · rw [blkAcRefine_inRun (s := s.unheld) hrun, State.band_eq_range']
      exact hwalk
    · have hplane : (t.comp.get s.blockComp).coef = m := by
        rw [ht, State.refinedTo]
        exact congrArg Comp.coef (State.withCoef_get_same _ _ m)
      rw [hplane, ht, State.refinedTo_record]
      rfl
  · rw [exec_acrSym hdec] at hexec
    obtain hok | ⟨e, u, herr, rfl⟩ | ⟨u, -, rfl⟩ := runOp_next hexec
    · exact runOp_ok (blkAcRefine_symbol (s := s.unheld) hrun h16 hsym hn hok hpast)
    · have hround := acrRound_symbol (s := s.unheld.atBand) h16 (hsym.of_eq rfl rfl) hn
      refine runOp_raise ?_
      rw [blkAcRefine_symbols (s := s.unheld) hrun]
      exact seq_bind_error (hround.trans herr) _
    · cases hin
  · intro b1 v
    have hv : v = b1.top r := (BitMachine.top_eq_div _ _).symm
    rw [hv]
    exact ⟨fun he => runOp_ok (blkAcFirst_eob (s := s.unheld) hrun h16 hr hsym hn he),
      fun hle hlast hzero => runOp_ok (blkAcRefine_eob (s := s.unheld) hrun h16 hr hsym hn hle hlast hzero)⟩
  · intro n e k hrun h16 h32 hloaded he hpast hin
    have hentry : at? (s.fastAc.get s.acTable) (s.bits.top 9) 0 = e := rfl
    clear_value e
    obtain ⟨m, hblock, hreads⟩ := blkAcFirst_fast (s := s.unheld) hrun h16 hloaded hentry he hpast hin
    exact ⟨_, runOp_ok hblock, State.withCoef_own .., fun d b z _ => hreads d b z⟩

/-! ### The sample plane of a component (R77) -/

/-- Component `c` with the sample plane `m`. -/
def State.withPlane (c : Fin 4) (m : Mem 8) (s : State) : State := s.setComp c { s.comp.get c with plane := m }

section
variable (s : State) (c : Fin 4) (m : Mem 8)

theorem State.withPlane_get (d : Fin 4) :
    (s.withPlane c m).comp.get d = { s.comp.get d with plane := if d = c then m else (s.comp.get d).plane } := by
  rw [State.withPlane, State.setComp_comp, comp_set_get]
  by_cases hd : d = c
  · subst hd
    rw [if_pos rfl, if_pos rfl]
  · rw [if_neg (Ne.symm hd), if_neg hd]

theorem State.withPlane_get_same : (s.withPlane c m).comp.get c = { s.comp.get c with plane := m } := s.setComp_comp_same c _

theorem State.withPlane_withPlane (m' : Mem 8) : (s.withPlane c m).withPlane c m' = s.withPlane c m' := by
  rw [State.withPlane, State.withPlane_get_same]
  exact s.setComp_setComp c _ _

theorem State.withPlane_self : s.withPlane c (s.comp.get c).plane = s := by
  have hset : s.comp.set c.val (s.comp.get c) c.isLt = s.comp := Vector.set_getElem_self c.isLt
  exact congrArg (fun v => { s with comp := v }) hset

/-- The plane of a state with a given plane is that plane. -/
theorem State.withPlane_own : s.withPlane c m = s.withPlane c ((s.withPlane c m).comp.get c).plane := by
  rw [State.withPlane_get_same]

theorem State.inPlane_withPlane (d : Fin 4) (y x : Nat) : (s.withPlane c m).inPlane d y x = s.inPlane d y x := by
  rw [State.inPlane, State.withPlane_get]
  rfl

theorem State.planeIndex_withPlane (d : Fin 4) (y x : Nat) : (s.withPlane c m).planeIndex d y x = s.planeIndex d y x := by
  rw [State.planeIndex, State.withPlane_get]
  rfl

/-- A sample plane holds no coefficient. -/
theorem State.coefficient_withPlane (d : Fin 4) (b z : Nat) : (s.withPlane c m).coefficient d b z = s.coefficient d b z := by
  refine State.coefficient_congr ?_ ?_ ?_ ?_ b z
  · rfl
  all_goals rw [State.withPlane_get]

end

section
variable {s : State} {c : Fin 4} {y x : Nat}

/-- Sample `(y, x)` of component `c` written. -/
def State.writeSample (c : Fin 4) (y x : Nat) (v : Byte) (s : State) : State :=
  s.withPlane c ((s.comp.get c).plane.write (s.planeIndex c y x) v)

theorem planeWrite_ok (h : s.inPlane c y x = true) (v : Byte) : planeWrite c y x v s = .ok () (s.writeSample c y x v) := if_pos h

/-- The samples of a plane have an index each. -/
theorem State.planeIndex_inj {y' x' : Nat} (h : s.inPlane c y x = true) (h' : s.inPlane c y' x' = true)
    (heq : s.planeIndex c y x = s.planeIndex c y' x') : y = y' ∧ x = x' := by
  simp only [State.inPlane, Bool.and_eq_true, decide_eq_true_eq] at h h'
  have hx := h.2
  have hx' := h'.2
  rw [State.planeIndex, State.planeIndex, Nat.mul_comm, Nat.mul_comm y'] at heq
  have hdiv := congrArg (· / (s.comp.get c).w2.toNat) heq
  have hmod := congrArg (· % (s.comp.get c).w2.toNat) heq
  simp only [Nat.mul_add_div (Nat.zero_lt_of_lt hx), Nat.div_eq_of_lt hx, Nat.div_eq_of_lt hx', Nat.mul_add_mod,
    Nat.mod_eq_of_lt hx, Nat.mod_eq_of_lt hx'] at hdiv hmod
  exact ⟨hdiv, hmod⟩

/-- A written sample reads as the value written, every other one as before. -/
theorem State.sample_writeSample (h : s.inPlane c y x = true) (v : Byte) (d : Fin 4) (y' x' : Nat) :
    (s.writeSample c y x v).sample d y' x' = if d = c ∧ y' = y ∧ x' = x then some v else s.sample d y' x' := by
  rw [State.sample, State.writeSample, State.inPlane_withPlane, State.planeIndex_withPlane, State.withPlane_get]
  by_cases hhere : d = c ∧ y' = y ∧ x' = x
  · obtain ⟨rfl, rfl, rfl⟩ := hhere
    rw [if_pos h, if_pos rfl, Mem.read_write_same]
    exact (if_pos ⟨rfl, rfl, rfl⟩).symm
  · rw [if_neg hhere, State.sample]
    by_cases hin : s.inPlane d y' x' = true
    · rw [if_pos hin, if_pos hin]
      by_cases hd : d = c
      · subst hd
        rw [if_pos rfl]
        exact Mem.read_write_other _ _ fun heq => hhere ⟨rfl, State.planeIndex_inj hin h heq⟩
      · rw [if_neg hd]
    · rw [if_neg hin, if_neg hin]

end

/-! ### A block placed (R337) -/

section
variable {s : State} {c : Fin 4} {gx gy : Nat}

/-- Samples of one block written: they read as their values, every other one as before. -/
theorem placeSamples_ok (px : Vector Byte 64) (is : List Nat) (h64 : ∀ i ∈ is, i < 64)
    (h : ∀ y x, y < 8 → x < 8 → s.inPlane c (8 * gy + y) (8 * gx + x) = true) :
    ∃ m, forEach is (fun i => planeWrite c (8 * gy + i / 8) (8 * gx + i % 8) (at? px i 0)) s = .ok () (s.withPlane c m) ∧
      ∀ d y x, (s.withPlane c m).sample d y x =
        if d = c ∧ y / 8 = gy ∧ x / 8 = gx ∧ 8 * (y % 8) + x % 8 ∈ is then some (at? px (8 * (y % 8) + x % 8) 0)
        else s.sample d y x := by
  induction is generalizing s with
  | nil =>
    refine ⟨(s.comp.get c).plane, ?_, fun d y x => ?_⟩ <;> rw [s.withPlane_self]
    · rfl
    · exact (if_neg fun hin => List.not_mem_nil hin.2.2.2).symm
  | cons i is ih =>
    have hi := h64 i List.mem_cons_self
    have hin := h (i / 8) (i % 8) (by omega) (by omega)
    obtain ⟨m, hrun, hreads⟩ := ih (s := s.writeSample c (8 * gy + i / 8) (8 * gx + i % 8) (at? px i 0))
      (fun j hj => h64 j (List.mem_cons_of_mem i hj)) fun y x hy hx => (s.inPlane_withPlane ..).trans (h y x hy hx)
    rw [State.writeSample, State.withPlane_withPlane] at hrun hreads
    refine ⟨m, ?_, fun d y x => ?_⟩
    · rw [forEach_cons, seq_bind_ok (planeWrite_ok hin _)]
      exact hrun
    · rw [hreads]
      refine (congrArg (ite _ _) (State.sample_writeSample hin (at? px i 0) d y x)).trans ?_
      have hplace : (y = 8 * gy + i / 8 ∧ x = 8 * gx + i % 8) ↔ y / 8 = gy ∧ x / 8 = gx ∧ 8 * (y % 8) + x % 8 = i := by omega
      simp only [hplace, List.mem_cons]
      grind

theorem placeBlock_ok (h : ∀ y x, y < 8 → x < 8 → s.inPlane c (8 * gy + y) (8 * gx + x) = true) :
    ∃ m, placeBlock c gx gy s = .ok () (s.withPlane c m) ∧
      ∀ d y x, (s.withPlane c m).sample d y x =
        if d = c ∧ y / 8 = gy ∧ x / 8 = gx then some (at? s.blk.px (8 * (y % 8) + x % 8) 0) else s.sample d y x := by
  obtain ⟨m, hrun, hreads⟩ := placeSamples_ok s.blk.px (List.range 64) (fun _ => List.mem_range.1) h
  refine ⟨m, hrun, fun d y x => (hreads d y x).trans (if_congr ?_ rfl rfl)⟩
  have hin : 8 * (y % 8) + x % 8 ∈ List.range 64 := List.mem_range.2 (by omega)
  exact ⟨fun h => ⟨h.1, h.2.1, h.2.2.1⟩, fun h => ⟨h.1, h.2.1, h.2.2, hin⟩⟩

/-- The 64 samples of a placed block, by their place in the block. -/
theorem sample_in_block {px : Vector Byte 64} {t : State} (h : ∀ d y x, t.sample d y x =
      if d = c ∧ y / 8 = gy ∧ x / 8 = gx then some (at? px (8 * (y % 8) + x % 8) 0) else s.sample d y x)
    {y x : Nat} (hy : y < 8) (hx : x < 8) : t.sample c (8 * gy + y) (8 * gx + x) = some (at? px (8 * y + x) 0) := by
  have hgy : (8 * gy + y) / 8 = gy ∧ (8 * gy + y) % 8 = y := by omega
  have hgx : (8 * gx + x) / 8 = gx ∧ (8 * gx + x) % 8 = x := by omega
  rw [h, if_pos ⟨rfl, hgy.1, hgx.1⟩, hgy.2, hgx.2]

end

/-! ### The finish (R286) -/

section
variable {s : State} {c : Fin 4} {b : Nat} {co : Vector (BitVec 16) 64} {Q : Vector (BitVec 16) 64}

/-- One coefficient dequantised into the block buffer (R286). -/
def dequantCoef (c : Fin 4) (b : Nat) (Q : Vector (BitVec 16) 64) (z : Nat) : Seq Unit := do
  let v ← coefRead c b z
  upd (fun s => s.setBlk { s.blk with data := put s.blk.data z (trunc16 (v.toInt * (at? Q z 0).toNat)) })

/-- A coefficient `p` dequantised by the entry `q`. -/
def dequantised (p q : BitVec 16) : BitVec 16 := BitVec.ofInt 16 (p.toInt * q.toNat)

theorem dequantCoef_ok {p : BitVec 16} {z : Nat} (hz : z < 64) (h : s.coefficient c b z = some p) :
    dequantCoef c b Q z s = .ok () (s.setBlk { s.blk with data := s.blk.data.set z (dequantised p Q[z]) }) := by
  have hput (v : BitVec 16) : put s.blk.data z v = s.blk.data.set z v := dif_pos hz
  rw [dequantCoef, seq_bind_ok (coefRead_ok h), upd_apply, hput, at?_of_lt Q hz]
  rfl

/-- Coefficients dequantised: they stand in the block buffer, its other values as before. -/
theorem dequantCoefs_ok (zs : List Nat) (h64 : ∀ z ∈ zs, z < 64) (h : ∀ z : Fin 64, s.coefficient c b z.val = some (co.get z)) :
    ∃ data, forEach zs (dequantCoef c b Q) s = .ok () (s.setBlk { s.blk with data := data }) ∧
      ∀ (z : Nat) (hz : z < 64), data[z] = if z ∈ zs then dequantised co[z] Q[z] else s.blk.data[z] := by
  induction zs generalizing s with
  | nil => exact ⟨s.blk.data, rfl, fun z _ => (if_neg List.not_mem_nil).symm⟩
  | cons i zs ih =>
    have hi := h64 i List.mem_cons_self
    obtain ⟨data, hrun, hreads⟩ := ih (s := s.setBlk { s.blk with data := s.blk.data.set i (dequantised co[i] Q[i]) })
      (fun z hz => h64 z (List.mem_cons_of_mem i hz)) h
    refine ⟨data, ?_, fun z hz => ?_⟩
    · rw [forEach_cons, seq_bind_ok (dequantCoef_ok hi (h ⟨i, hi⟩))]
      exact hrun
    · have hset : (s.blk.data.set i (dequantised co[i] Q[i]))[z] = if i = z then dequantised co[i] Q[i] else s.blk.data[z] :=
        Vector.getElem_set hi hz
      rw [hreads z hz]
      refine (congrArg (ite _ _) hset).trans ?_
      simp only [List.mem_cons]
      grind

theorem dequantBlock_ok (h : ∀ z : Fin 64, s.coefficient c b z.val = some (co.get z)) :
    dequantBlock c b Q s = .ok () (s.setBlk { s.blk with
      data := Vector.ofFn (fun z : Fin 64 => dequantised (co.get z) (Q.get z)) }) := by
  obtain ⟨data, hrun, hreads⟩ := dequantCoefs_ok (Q := Q) (List.range 64) (fun _ => List.mem_range.1) h
  have hdata : data = Vector.ofFn (fun z : Fin 64 => dequantised (co.get z) (Q.get z)) := by
    refine Vector.ext fun z hz => ?_
    rw [hreads z hz, if_pos (List.mem_range.2 hz), Vector.getElem_ofFn]
    rfl
  rw [← hdata]
  exact hrun

/-- The finish's position after a block inside its grid (R286). -/
theorem State.nextFinish_eq (hrow : s.pos.fj.toNat < (s.comp.get (idx2 s.pos.fk)).gridH) (hcomp : s.pos.fk.toNat < s.frame.imgN.toNat) :
    let lastCol := s.pos.fi.toNat + 1 = (s.comp.get (idx2 s.pos.fk)).gridW
    let lastRow := s.pos.fj.toNat + 1 = (s.comp.get (idx2 s.pos.fk)).gridH
    s.nextFinish = { s with
      pos := { s.pos with
        fi := if lastCol then 0 else s.pos.fi + 1
        fj := if lastCol then (if lastRow then 0 else s.pos.fj + 1) else s.pos.fj
        fk := if lastCol ∧ lastRow then s.pos.fk + 1 else s.pos.fk }
      phase := if lastCol ∧ lastRow ∧ s.pos.fk.toNat + 1 = s.frame.imgN.toNat then .output else s.phase } := by
  intro lastCol lastRow
  have hnext {n : Nat} (x : BitVec n) : BitVec.ofNat n (x.toNat + 1) = x + 1 := by
    rw [BitVec.ofNat_add, BitVec.ofNat_toNat, BitVec.setWidth_eq]
    rfl
  have hrow' : s.pos.fj.toNat ≠ (s.comp.get (idx2 s.pos.fk)).gridH := Nat.ne_of_lt hrow
  have hcomp' : s.pos.fk.toNat ≠ s.frame.imgN.toNat := Nat.ne_of_lt hcomp
  unfold State.nextFinish
  by_cases hcol : s.pos.fi.toNat + 1 = (s.comp.get (idx2 s.pos.fk)).gridW
  · by_cases hlast : s.pos.fj.toNat + 1 = (s.comp.get (idx2 s.pos.fk)).gridH
    · simp [lastCol, lastRow, hcol, hlast, hnext]
    · simp [lastCol, lastRow, hcol, hlast, hnext, hcomp']
  · simp [lastCol, hcol, hnext, hrow', hcomp']

/-- The next position does not depend on the sample planes. -/
theorem State.nextFinish_withPlane (s : State) (c : Fin 4) (m : Mem 8) : (s.withPlane c m).nextFinish = s.nextFinish.withPlane c m := by
  unfold State.nextFinish
  simp only [State.withPlane_get]
  rfl

theorem idct_bind {α : Type} (f : Unit → Seq α) (s : State) :
    (idct >>= f) s = f () (s.setBlk { s.blk with px := idctBlock s.blk.data }) := rfl

/-- DEQUANT_IDCT on a block that dequantises to `data`, in a plane it fits in. -/
theorem dequantIdct_ok {data : Vector (BitVec 16) 64} (hq : s.qtLoaded.get (idx2 (s.comp.get (idx2 s.pos.fk)).tq) = true)
    (hblock : dequantBlock (idx2 s.pos.fk) (s.pos.fi.toNat + s.pos.fj.toNat * (s.comp.get (idx2 s.pos.fk)).coeffW.toNat)
      (s.qt.get (idx2 (s.comp.get (idx2 s.pos.fk)).tq)) s = .ok () (s.setBlk { s.blk with data := data }))
    (hin : ∀ y x, y < 8 → x < 8 → s.inPlane (idx2 s.pos.fk) (8 * s.pos.fj.toNat + y) (8 * s.pos.fi.toNat + x) = true) :
    ∃ m, dequantIdct s = .ok ()
        ((s.setBlk { s.blk with data := data, px := idctBlock data }).nextFinish.withPlane (idx2 s.pos.fk) m) ∧
      ∀ d y x, (s.withPlane (idx2 s.pos.fk) m).sample d y x =
        if d = idx2 s.pos.fk ∧ y / 8 = s.pos.fj.toNat ∧ x / 8 = s.pos.fi.toNat then
          some (at? (idctBlock data) (8 * (y % 8) + x % 8) 0)
        else s.sample d y x := by
  obtain ⟨m, hplace, hreads⟩ := placeBlock_ok (s := s.setBlk { s.blk with data := data, px := idctBlock data }) hin
  have hcheck : (decide (s.pos.fi = 0) && decide (s.pos.fj = 0) && !s.qtLoaded.get (idx2 (s.comp.get (idx2 s.pos.fk)).tq)) = false := by
    rw [hq, Bool.not_true, Bool.and_false]
  refine ⟨m, ?_, hreads⟩
  rw [dequantIdct, get_bind]
  dsimp only
  rw [hcheck, check_bind, if_neg Bool.false_ne_true, seq_bind_ok (loadedQt_loaded hq), seq_bind_ok hblock, idct_bind,
    ← State.nextFinish_withPlane]
  exact seq_bind_ok hplace _

end

/-- Settles O55: the coefficients, the transform, the samples, the next position. -/
theorem finishBlockPlaced : Obligations.FinishBlockPlaced := by
  refine ⟨fun s co => ?_, fun s hfi hfj hq => ?_⟩
  · intro k c Q lastCol lastRow hq hrow hcomp hco hin data
    have hblock : dequantBlock k (s.pos.fi.toNat + s.pos.fj.toNat * c.coeffW.toNat) Q s.unheld =
        .ok () (s.unheld.setBlk { s.blk with data := data }) := dequantBlock_ok (s := s.unheld) hco
    clear_value data
    obtain ⟨m, hrun, hreads⟩ := dequantIdct_ok (s := s.unheld) hq hblock hin
    have hnext := State.nextFinish_eq (s := s.unheld.setBlk { s.blk with data := data, px := idctBlock data }) hrow hcomp
    refine ⟨_, runOp_ok hrun, ?_, fun y x hy hx => sample_in_block hreads hy hx, fun d y x hout => (hreads d y x).trans (if_neg hout),
      fun d b z => State.coefficient_withPlane ..⟩
    exact (congrArg (State.withPlane k m) hnext).trans (State.withPlane_own ..)
  · have hcheck : (decide (s.pos.fi = 0) && decide (s.pos.fj = 0) &&
        !s.qtLoaded.get (idx2 (s.comp.get (idx2 s.pos.fk)).tq)) = true := by rw [hfi, hfj, hq]; rfl
    refine runOp_raise ?_
    rw [dequantIdct, get_bind, check_bind]
    exact if_pos hcheck

/-! ### Pieces that have run to their end -/

section
variable {γ α β : Type} {π : State → γ} {m : Seq α} {s t u : State}

theorem Keeps.ok {a : α} (hm : Keeps π m) (h : m s = .ok a t) : π t = π s := by
  have ht := hm (π s) s rfl
  rwa [h] at ht

theorem Keeps.error {e : Stop} (hm : Keeps π m) (h : m s = .error e t) : π t = π s := by
  have ht := hm (π s) s rfl
  rwa [h] at ht

theorem exists_of_seq_bind_ok {f : α → Seq β} {b : β} (h : (m >>= f) s = .ok b u) : ∃ a t, m s = .ok a t ∧ f a t = .ok b u := by
  rw [seq_bind] at h
  cases hms : m s with
  | ok a t => rw [hms] at h; exact ⟨a, t, rfl, h⟩
  | error e t => rw [hms] at h; cases h

end

/-! ### Pieces that do not see the unit port -/

/-- The state with the `last` operand of the unit port (R313). -/
def State.withLast (b : Bool) (s : State) : State := { s with unit := { s.unit with last := b } }

/-- How a piece ends when the unit port holds another `last`. -/
def resultWithLast {α : Type} (b : Bool) : EStateM.Result Stop State α → EStateM.Result Stop State α
  | .ok a t => .ok a (t.withLast b)
  | .error e t => .error e (t.withLast b)

/-- The piece runs alike whatever `last` the unit port holds. -/
def BlindToLast {α : Type} (m : Seq α) : Prop := ∀ b s, m (s.withLast b) = resultWithLast b (m s)

section
variable {α β : Type} {m : Seq α}

theorem blind_pure (a : α) : BlindToLast (pure a) := fun _ _ => rfl
theorem blind_look {f : State → α} (h : ∀ b s, f (s.withLast b) = f s) : BlindToLast (look f) :=
  fun b s => congrArg (EStateM.Result.ok · (s.withLast b)) (h b s)
theorem blind_upd {f : State → State} (h : ∀ b s, f (s.withLast b) = (f s).withLast b) : BlindToLast (upd f) :=
  fun b s => congrArg (EStateM.Result.ok ()) (h b s)
theorem blind_modelFault (f : Fault) : BlindToLast (modelFault f : Seq α) := fun _ _ => rfl

theorem blind_check (c : Bool) (e : ErrCode) : BlindToLast (check c e) := fun b s => by cases c <;> rfl

theorem blind_bind {f : α → Seq β} (hm : BlindToLast m) (hf : ∀ a, BlindToLast (f a)) : BlindToLast (m >>= f) := by
  intro b s
  rw [seq_bind, seq_bind, hm b s]
  cases m s with
  | ok a t => exact hf a b t
  | error e t => rfl

theorem blind_ite {c : Prop} [Decidable c] {n : Seq α} (hm : BlindToLast m) (hn : BlindToLast n) :
    BlindToLast (if c then m else n) := by
  split <;> assumption

theorem blind_onlyIf {n : Seq Unit} (c : Bool) (hn : BlindToLast n) : BlindToLast (onlyIf c n) := blind_ite hn (blind_pure ())

end

theorem blind_readU8 : BlindToLast readU8 := by
  intro b s
  cases h : s.port.input with
  | nil =>
    rw [readU8_nil h, readU8_nil (s := s.withLast b) h]
    rfl
  | cons c rest =>
    rw [readU8_cons h, readU8_cons (s := s.withLast b) h]
    rfl

theorem blind_readPastFF : (n : Nat) → BlindToLast (readPastFF n)
  | 0 => blind_readU8
  | n + 1 => blind_bind blind_readU8 fun _ => blind_ite (blind_readPastFF n) (blind_pure _)

theorem blind_fillRound : BlindToLast fillRound := by
  have hbyte (b : Byte) : BlindToLast (appendByte b) := blind_upd fun _ _ => rfl
  have hff : BlindToLast afterFF := blind_bind (blind_look fun _ _ => rfl) fun _ => blind_bind (blind_readPastFF _) fun _ =>
    blind_ite (blind_bind (hbyte _) fun _ => blind_pure _) (blind_bind (blind_upd fun _ _ => rfl) fun _ => blind_pure _)
  exact blind_bind (blind_look fun _ _ => rfl) fun _ => blind_ite (blind_bind (hbyte _) fun _ => blind_pure _) <|
    blind_bind blind_readU8 fun _ => blind_ite hff (blind_bind (hbyte _) fun _ => blind_pure _)

theorem blind_fillLoop : (n : Nat) → BlindToLast (fillLoop n)
  | 0 => blind_pure _
  | n + 1 => blind_bind blind_fillRound fun _ => blind_bind (blind_look fun _ _ => rfl) fun _ =>
      blind_ite (blind_fillLoop n) (blind_pure _)

theorem blind_restartCheck (last : Bool) : BlindToLast (restartCheck last) := by
  have hfill : BlindToLast (fillBelow 24) := blind_bind (blind_look fun _ _ => rfl) fun _ => blind_onlyIf _ <|
    blind_bind (blind_look fun _ _ => rfl) fun _ => blind_ite (blind_modelFault _) (blind_fillLoop _)
  exact blind_bind (blind_upd fun _ _ => rfl) fun _ => blind_bind (blind_look fun _ _ => rfl) fun _ =>
    blind_ite (blind_bind hfill fun _ => blind_bind (blind_look fun _ _ => rfl) fun _ => blind_bind (blind_check _ _) fun _ =>
      blind_upd fun _ _ => rfl) (blind_pure _)

/-! ### The restart check (R313) -/

/-- The check that finds no restart due counts the MCU. -/
theorem restartCheck_notDue {s : State} {last : Bool} (h : 0 < (s.todo - 1).toInt ∨ last = true) :
    restartCheck last s = .ok () (s.setTodo (s.todo - 1)) := by
  have hdue : (decide ((s.todo - 1).toInt ≤ 0) && !last) = false := by
    rcases h with h | rfl
    · rw [decide_eq_false (Int.not_le.2 h), Bool.false_and]
    · rw [Bool.not_true, Bool.and_false]
  rw [restartCheck, upd_bind, look_bind]
  refine (congrFun (if_neg ?_) _).trans rfl
  rw [State.setTodo_todo, hdue]
  exact Bool.false_ne_true

/-- The check leaves what ignores the bit machine, the count and Reset (R310). -/
theorem IgnoresBits.keeps_restartCheck {γ : Type} {π : State → γ} (h : IgnoresBits π) (htodo : ∀ (s : State) n, π (s.setTodo n) = π s)
    (hreset : ∀ s : State, π s.resetEntropy = π s) (last : Bool) : Keeps π (restartCheck last) :=
  keeps_bind (keeps_upd fun _ => htodo _ _) fun _ => keeps_bind (keeps_look _) fun _ => keeps_ite
    (keeps_bind (h.keeps_fillBelow _) fun _ => keeps_bind (keeps_look _) fun _ => keeps_bind (keeps_check _ _) fun _ =>
      keeps_upd hreset) (keeps_pure _)

/-! ### What the blocks of an MCU leave unchanged -/

/-- The part of the state that fixes the grid of MCUs of the scan (R272, R273). -/
structure McuShape where
  scanN : BitVec 3
  order : Vector (BitVec 2) 4
  frame : Frame
  size : Fin 4 → BitVec 17 × BitVec 17

/-- See `McuShape`. -/
def State.mcuShape (s : State) : McuShape where
  scanN := s.scan.scanN
  order := s.scan.order
  frame := s.frame
  size := fun c => ((s.comp.get c).x, (s.comp.get c).y)

/-- The registers that no block operation writes (43_block_decoder.md), and the MCU position. -/
structure McuPlace where
  ctl : Control
  phase : Phase
  unit : UnitPort
  todo : BitVec 32
  mcuI : BitVec 17
  mcuJ : BitVec 17

/-- See `McuPlace`. -/
def State.mcuPlace (s : State) : McuPlace where
  ctl := s.ctl
  phase := s.phase
  unit := s.unit
  todo := s.todo
  mcuI := s.pos.mcuI
  mcuJ := s.pos.mcuJ

/-- The columns of the grid are of the one component, or the frame's. -/
theorem State.mcuCols_eq (s : State) :
    s.mcuCols = if s.scan.scanN = 1 then ceilDiv (s.comp.get (idx2 (s.scan.order.get 0))).x.toNat 8 else s.frame.mcuX.toNat := by
  by_cases h : s.scan.scanN = 1
  · have hsingle : s.single = true := beq_iff_eq.2 h
    rw [State.mcuCols, State.blockComp, hsingle, if_pos rfl, if_pos rfl, if_pos h]
    rfl
  · have hsingle : s.single = false := beq_eq_false_iff_ne.2 h
    rw [State.mcuCols, hsingle, if_neg h]
    rfl

theorem State.mcuRows_eq (s : State) :
    s.mcuRows = if s.scan.scanN = 1 then ceilDiv (s.comp.get (idx2 (s.scan.order.get 0))).y.toNat 8 else s.frame.mcuY.toNat := by
  by_cases h : s.scan.scanN = 1
  · have hsingle : s.single = true := beq_iff_eq.2 h
    rw [State.mcuRows, State.blockComp, hsingle, if_pos rfl, if_pos rfl, if_pos h]
    rfl
  · have hsingle : s.single = false := beq_eq_false_iff_ne.2 h
    rw [State.mcuRows, hsingle, if_neg h]
    rfl

section
variable {s t : State}

theorem State.mcuGrid_of_shape (h : t.mcuShape = s.mcuShape) : t.mcuCols = s.mcuCols ∧ t.mcuRows = s.mcuRows := by
  have hn : t.scan.scanN = s.scan.scanN := congrArg McuShape.scanN h
  have horder : t.scan.order = s.scan.order := congrArg McuShape.order h
  have hframe : t.frame = s.frame := congrArg McuShape.frame h
  have hcomp (c : Fin 4) : ((t.comp.get c).x, (t.comp.get c).y) = ((s.comp.get c).x, (s.comp.get c).y) :=
    congrArg (fun p : McuShape => p.size c) h
  have hx (c : Fin 4) : (t.comp.get c).x = (s.comp.get c).x := congrArg Prod.fst (hcomp c)
  have hy (c : Fin 4) : (t.comp.get c).y = (s.comp.get c).y := congrArg Prod.snd (hcomp c)
  rw [State.mcuCols_eq, State.mcuRows_eq, State.mcuCols_eq, State.mcuRows_eq, hn, horder, hframe, hx, hy]
  exact ⟨rfl, rfl⟩

theorem State.posAfterMcu_eq (s : State) :
    s.posAfterMcu = if s.pos.mcuI.toNat + 1 = s.mcuCols then { s.pos with mcuI := 0, mcuJ := s.pos.mcuJ + 1 }
      else { s.pos with mcuI := s.pos.mcuI + 1 } := by
  rw [State.posAfterMcu, State.mcuCols_eq]

theorem State.nextMcu_eq (s : State) : s.nextMcu = s.setPos s.posAfterMcu := by
  rw [State.nextMcu, State.posAfterMcu_eq]
  exact (apply_ite (s.setPos ·) _ _ _).symm

theorem State.posAfterMcu_of_shape (h : t.mcuShape = s.mcuShape) (hpos : t.pos = s.pos) : t.posAfterMcu = s.posAfterMcu := by
  rw [State.posAfterMcu_eq, State.posAfterMcu_eq, (State.mcuGrid_of_shape h).1, hpos]

theorem State.Decodes.mcuShape_eq (h : s.Decodes t) : t.mcuShape = s.mcuShape := by
  have hn : t.scan.scanN = s.scan.scanN := (congrArg (fun u : State => u.scan.scanN) h.rest :)
  have horder : t.scan.order = s.scan.order := (congrArg (fun u : State => u.scan.order) h.rest :)
  have hframe : t.frame = s.frame := (congrArg State.frame h.rest :)
  have hcomp (c : Fin 4) : ((t.comp.get c).x, (t.comp.get c).y) = ((s.comp.get c).x, (s.comp.get c).y) :=
    (congrArg (fun r : Comp => (r.x, r.y)) (h.comp c) :)
  rw [State.mcuShape, hn, horder, hframe, funext hcomp]
  rfl

end

section
variable {γ α : Type} {π : State → γ}

/-- The decoding of a block leaves what its relation leaves. -/
theorem keeps_of_decoding {m : Seq α} (hm : ∀ s, Decoding s m) (h : ∀ s t : State, s.Decodes t → π t = π s) : Keeps π m := by
  intro p s hs
  have ht := hm s s (.refl s)
  cases hms : m s with
  | ok a t => rw [hms] at ht; exact (h s t ht).trans hs
  | error e t => rw [hms] at ht; exact (h s t ht).trans hs

theorem keeps_planeWrite_of_withPlane (h : ∀ (s : State) c m, π (s.withPlane c m) = π s) (c : Fin 4) (y x : Nat) (v : Byte) :
    Keeps π (planeWrite c y x v) := by
  intro p s hs
  rcases planeWrite_cases c y x v s with ⟨-, e⟩ | ⟨-, e⟩ <;> rw [e]
  · exact (h s _ _).trans hs
  · exact hs

end

theorem keeps_runBlock_mcuShape : Keeps State.mcuShape runBlock := by
  have hdec {m : Seq Unit} (hm : ∀ s, Decoding s m) : Keeps State.mcuShape m :=
    keeps_of_decoding hm fun _ _ h => h.mcuShape_eq
  have hplane (s : State) (c : Fin 4) (m : Mem 8) : (s.withPlane c m).mcuShape = s.mcuShape := by
    rw [State.mcuShape]
    simp only [State.withPlane_get]
    rfl
  have hblk (s : State) (b : BlockRegs) : (s.setBlk b).mcuShape = s.mcuShape := rfl
  have hidct : Keeps State.mcuShape idct := keeps_upd fun s => hblk s _
  have hplace (c : Fin 4) (gx gy : Nat) : Keeps State.mcuShape (placeBlock c gx gy) :=
    keeps_bind (keeps_look _) fun _ => keeps_forEach _ fun _ => keeps_planeWrite_of_withPlane hplane _ _ _ _
  exact keeps_bind (keeps_look _) fun _ => keeps_ite
    (keeps_bind (hdec decoding_blkBaseline) fun _ => keeps_bind hidct fun _ => keeps_bind keeps_get fun _ => hplace _ _ _) <|
    keeps_ite (hdec decoding_blkDcFirst) <| keeps_ite (hdec decoding_blkDcRefine) <|
    keeps_ite (hdec decoding_blkAcFirst) (hdec decoding_blkAcRefine)

theorem ignoresBlocks_mcuPlace : IgnoresBlocks State.mcuPlace :=
  ⟨fun _ _ _ => rfl, fun _ _ => rfl, fun _ _ _ => rfl, fun _ _ => rfl, fun _ _ => rfl⟩

theorem ignoresBlocks_pos : IgnoresBlocks State.pos :=
  ⟨fun _ _ _ => rfl, fun _ _ => rfl, fun _ _ _ => rfl, fun _ _ => rfl, fun _ _ => rfl⟩

/-- The blocks of an MCU leave what one block leaves. -/
theorem keeps_runMcu {γ : Type} {π : State → γ} (hblock : Keeps π runBlock)
    (hpos : ∀ (s : State) k y x, π (s.setPos { s.pos with sk := k, brow := y, bcol := x }) = π s) : Keeps π runMcu :=
  keeps_bind keeps_get fun _ => keeps_ite hblock <| keeps_forEach _ fun _ =>
    keeps_bind (keeps_upd fun s => hpos s _ _ _) fun _ => hblock

theorem keeps_runMcu_mcuShape : Keeps State.mcuShape runMcu := keeps_runMcu keeps_runBlock_mcuShape fun _ _ _ _ => rfl

theorem keeps_runMcu_mcuPlace : Keeps State.mcuPlace runMcu :=
  keeps_runMcu (keeps_runBlock ignoresBlocks_mcuPlace) fun _ _ _ _ => rfl

/-! ### One block of a scan (R270, R284) -/

/-- The state runs in SCAN and no step of it is held. -/
def State.Running (s : State) : Prop := s.unheld = s ∧ s.phase = .scan

section
variable {s t u : State}

theorem State.unheld_of_ctl (hs : s.unheld = s) (h : t.ctl = s.ctl) : t.unheld = t := by
  have hctl : ({ t.ctl with stallIn := false, held := 0 } : Control) = t.ctl := by
    rw [h]
    exact congrArg State.ctl hs
  exact congrArg (fun c : Control => { t with ctl := c }) hctl

theorem State.Running.of_place (hs : s.Running) (h : t.mcuPlace = s.mcuPlace) : t.Running :=
  ⟨State.unheld_of_ctl hs.1 (congrArg McuPlace.ctl h), (congrArg McuPlace.phase h).trans hs.2⟩

theorem State.Running.not_stalled (hs : s.Running) : s.ctl.stallIn = false := by
  rw [← hs.1]
  rfl

/-- A rule that ends in SCAN and is not held has run to its end. -/
theorem runOp_completes {m : Seq Unit} (h : runOp m s = .next t) (hp : t.phase = .scan) (hin : t.ctl.stallIn = false) :
    m s.unheld = .ok () t := by
  obtain hok | ⟨e, u, -, rfl⟩ | ⟨u, -, rfl⟩ := runOp_next h
  · exact hok
  · cases hp
  · cases hin

/-- A piece that runs to its end ends its rule there. -/
theorem State.Running.runOp {m : Seq Unit} (hs : s.Running) (h : m s = .ok () t) : runOp m s = .next t :=
  runOp_ok (by rwa [hs.1])

/-- Transform and placement of a baseline block (R284). -/
def placeTransform : Seq Unit := do
  idct
  let s ← get
  placeBlock s.blockComp s.blockCol s.blockRow

theorem runBlock_apply (s : State) :
    runBlock s = (if s.blockOp = 0x10 then blkBaseline >>= fun _ => placeTransform else if s.blockOp = 0x11 then blkDcFirst
      else if s.blockOp = 0x12 then blkDcRefine else if s.blockOp = 0x13 then blkAcFirst else blkAcRefine) s := rfl

theorem runBlock_baseline (h : s.frame.progressive = false) : runBlock s = (blkBaseline >>= fun _ => placeTransform) s := by
  have hop : s.blockOp = 0x10 := if_pos h
  rw [runBlock_apply, hop]
  rfl

theorem blockOp_progressive (h : s.frame.progressive = true) :
    s.blockOp = if s.scan.scanN = 1 ∧ s.scan.specStart ≠ 0 then (if s.scan.succHigh = 0 then 0x13 else 0x14)
      else (if s.scan.succHigh = 0 then 0x11 else 0x12) := by
  have hac : (s.single && s.scan.specStart != 0) = true ↔ s.scan.scanN = 1 ∧ s.scan.specStart ≠ 0 := by
    rw [State.single, Bool.and_eq_true, beq_iff_eq, bne_iff_ne]
  rw [State.blockOp, h, if_neg (by decide)]
  exact if_congr hac rfl rfl

/-- In a progressive frame the block operation is all of a block (R270). -/
theorem exec_scanInstr (h : s.frame.progressive = true) : exec s.scanInstr s = runOp runBlock s := by
  have hop := blockOp_progressive (s := s.unheld) h
  rw [State.unheld_scan] at hop
  rw [State.scanInstr, h, if_neg (by decide), runOp, runBlock_apply, hop]
  by_cases hac : s.scan.scanN = 1 ∧ s.scan.specStart ≠ 0
  · rw [if_pos hac, if_pos hac]
    by_cases hfirst : s.scan.succHigh = 0
    · rw [if_pos hfirst, if_pos hfirst]
      rfl
    · rw [if_neg hfirst, if_neg hfirst]
      rfl
  · rw [if_neg hac, if_neg hac]
    by_cases hfirst : s.scan.succHigh = 0
    · rw [if_pos hfirst, if_pos hfirst]
      rfl
    · rw [if_neg hfirst, if_neg hfirst]
      rfl

/-- Samples that were placed are samples of the plane. -/
theorem inPlane_of_placeSamples {c : Fin 4} {gx gy : Nat} {px : Vector Byte 64} {is : List Nat}
    (h : forEach is (fun i => planeWrite c (8 * gy + i / 8) (8 * gx + i % 8) (at? px i 0)) s = .ok () t) :
    ∀ i ∈ is, s.inPlane c (8 * gy + i / 8) (8 * gx + i % 8) = true := by
  induction is generalizing s with
  | nil => exact fun i hi => absurd hi List.not_mem_nil
  | cons j is ih =>
    rw [forEach_cons] at h
    rcases planeWrite_cases c (8 * gy + j / 8) (8 * gx + j % 8) (at? px j 0) s with ⟨hin, e⟩ | ⟨-, e⟩
    · rw [seq_bind_ok e] at h
      intro i hi
      rcases List.mem_cons.1 hi with rfl | hi
      · exact hin
      · exact (s.inPlane_withPlane ..).symm.trans (ih h i hi)
    · rw [seq_bind_error e] at h
      cases h

/-- The transform, then the placement at the scan position. -/
theorem placeTransform_apply (s : State) :
    placeTransform s = placeBlock s.blockComp s.blockCol s.blockRow (s.setBlk { s.blk with px := idctBlock s.blk.data }) := by
  have hplace (b : BlockRegs) : ((get : Seq State) >>= fun s => placeBlock s.blockComp s.blockCol s.blockRow) (s.setBlk b) =
      placeBlock s.blockComp s.blockCol s.blockRow (s.setBlk b) := rfl
  rw [placeTransform, idct_bind, hplace]

/-- Samples of the block registers `b` placed in a plane they fit in. -/
theorem placeBlock_setBlk {c : Fin 4} {gx gy : Nat} (b : BlockRegs)
    (hin : ∀ y x, y < 8 → x < 8 → s.inPlane c (8 * gy + y) (8 * gx + x) = true) :
    ∃ t, placeBlock c gx gy (s.setBlk b) = .ok () t ∧
      t = { s.setComp c { s.comp.get c with plane := (t.comp.get c).plane } with blk := b } ∧
      (∀ y x, y < 8 → x < 8 → t.sample c (8 * gy + y) (8 * gx + x) = some (at? b.px (8 * y + x) 0)) ∧
      ∀ n y x, ¬(n = c ∧ y / 8 = gy ∧ x / 8 = gx) → t.sample n y x = s.sample n y x := by
  obtain ⟨m, hplace, hreads⟩ := placeBlock_ok (s := s.setBlk b) hin
  exact ⟨_, hplace, State.withPlane_own .., fun y x hy hx => sample_in_block hreads hy hx,
    fun d y x hout => (hreads d y x).trans (if_neg hout)⟩

/-- A block inside the plane is transformed and placed. -/
theorem placeTransform_ok
    (hin : ∀ y x, y < 8 → x < 8 → s.inPlane s.blockComp (8 * s.blockRow + y) (8 * s.blockCol + x) = true) :
    ∃ t, placeTransform s = .ok () t ∧ s.Placed s.blockComp s.blockCol s.blockRow t := by
  rw [placeTransform_apply]
  exact placeBlock_setBlk { s.blk with px := idctBlock s.blk.data } hin

theorem inPlane_of_placeBlock {c : Fin 4} {gx gy : Nat} {b : BlockRegs} (h : placeBlock c gx gy (s.setBlk b) = .ok () t)
    {y x : Nat} (hy : y < 8) (hx : x < 8) : s.inPlane c (8 * gy + y) (8 * gx + x) = true := by
  have hi := inPlane_of_placeSamples h (8 * y + x) (List.mem_range.2 (by omega))
  have hyx : (8 * y + x) / 8 = y ∧ (8 * y + x) % 8 = x := by omega
  rwa [hyx.1, hyx.2] at hi

theorem placed_of_placeTransform (h : placeTransform s = .ok () t) : s.Placed s.blockComp s.blockCol s.blockRow t := by
  have hin {y x : Nat} (hy : y < 8) (hx : x < 8) : s.inPlane s.blockComp (8 * s.blockRow + y) (8 * s.blockCol + x) = true := by
    rw [placeTransform_apply] at h
    exact inPlane_of_placeBlock h hy hx
  obtain ⟨u, hu, hplaced⟩ := placeTransform_ok fun y x hy hx => hin hy hx
  rw [h] at hu
  cases hu
  exact hplaced

/-- A block that ran in SCAN is done (R270, R284). -/
theorem blockDone_of_runBlock (hs : s.Running) (h : runBlock s = .ok () t) : s.BlockDone t := by
  cases hprog : s.frame.progressive with
  | true =>
    have ht := hs.of_place ((keeps_runBlock ignoresBlocks_mcuPlace).ok h)
    refine ⟨t, ?_, ht.2, ht.not_stalled, ?_⟩
    · rw [exec_scanInstr hprog]
      exact hs.runOp h
    · rw [hprog]
      rfl
  | false =>
    rw [runBlock_baseline hprog] at h
    obtain ⟨⟨⟩, m, hblk, hplace⟩ := exists_of_seq_bind_ok h
    have hdec := (decoding_blkBaseline s).ok hblk
    have hm := hs.of_place ((keeps_blkBaseline ignoresBlocks_mcuPlace).ok hblk)
    have hplaced := placed_of_placeTransform hplace
    refine ⟨m, ?_, hm.2, hm.not_stalled, ?_⟩
    · rw [State.scanInstr, if_pos hprog]
      exact hs.runOp hblk
    · rw [hprog, ← hdec.blockComp_eq, ← hdec.blockCol_eq, ← hdec.blockRow_eq]
      exact hplaced

/-- A progressive block that is done is the run of its operation. -/
theorem runBlock_of_blockDone (hs : s.Running) (hprog : s.frame.progressive = true) (h : s.BlockDone t) :
    runBlock s = .ok () t := by
  obtain ⟨m, hexec, hphase, hin, ht⟩ := h
  rw [exec_scanInstr hprog] at hexec
  have hrun := runOp_completes hexec hphase hin
  rw [hprog] at ht
  rw [hs.1] at hrun
  rwa [show t = m from ht]

/-! ### The blocks of one MCU (R272, R273) -/

/-- The positions of the blocks of an MCU, as numbers. -/
theorem State.mcuPositions_eq (hn : s.scan.scanN.toNat ≤ 4) : s.mcuPositions = s.mcuBlocks.map fun p => (p.1.val, p.2) := by
  rw [State.mcuPositions, State.mcuBlocks, scanPositions, List.flatMap_map, List.map_flatMap]
  refine List.flatMap_congr fun sk hsk => ?_
  have hval : (Fin.ofNat 4 sk).val = sk := Nat.mod_eq_of_lt (Nat.lt_of_lt_of_le (List.mem_range.1 hsk) hn)
  rw [List.map_flatMap]
  refine List.flatMap_congr fun y _ => ?_
  rw [List.map_map]
  exact congrArg (fun k => List.map (fun x => (k, y, x)) _) hval.symm

/-- One block of an interleaved MCU. -/
def runBlockAt (p : Fin 4 × Nat × Nat) : Seq Unit := do
  setBlockPos p
  runBlock

/-- The state with the block position `p` (R273). -/
def State.atBlock (p : Fin 4 × Nat × Nat) (s : State) : State :=
  s.setPos { s.pos with sk := BitVec.ofNat 2 p.1.val, brow := BitVec.ofNat 3 p.2.1, bcol := BitVec.ofNat 3 p.2.2 }

theorem runBlockAt_apply (p : Fin 4 × Nat × Nat) (s : State) : runBlockAt p s = runBlock (s.atBlock p) := rfl

theorem State.Running.atBlock (hs : s.Running) (p : Fin 4 × Nat × Nat) : (s.atBlock p).Running := hs.of_place rfl

theorem blocksDone_of_run (ps : List (Fin 4 × Nat × Nat)) (hs : s.Running) (h : forEach ps runBlockAt s = .ok () t) :
    BlocksDone (ps.map fun p => (p.1.val, p.2)) s t := by
  induction ps generalizing s with
  | nil =>
    cases h
    rfl
  | cons p ps ih =>
    rw [forEach_cons] at h
    obtain ⟨⟨⟩, u, hblock, hrest⟩ := exists_of_seq_bind_ok h
    have hu := (hs.atBlock p).of_place ((keeps_runBlock ignoresBlocks_mcuPlace).ok hblock)
    exact ⟨u, blockDone_of_runBlock (hs.atBlock p) hblock, ih hu hrest⟩

theorem run_of_blocksDone (ps : List (Fin 4 × Nat × Nat)) (hs : s.Running) (hprog : s.frame.progressive = true)
    (h : BlocksDone (ps.map fun p => (p.1.val, p.2)) s t) : forEach ps runBlockAt s = .ok () t := by
  induction ps generalizing s with
  | nil =>
    cases h
    rfl
  | cons p ps ih =>
    obtain ⟨u, hdone, hrest⟩ := h
    have hblock := runBlock_of_blockDone (hs.atBlock p) hprog hdone
    have hu := (hs.atBlock p).of_place ((keeps_runBlock ignoresBlocks_mcuPlace).ok hblock)
    have hframe : u.frame = s.frame := congrArg McuShape.frame (keeps_runBlock_mcuShape.ok hblock)
    rw [forEach_cons, seq_bind_ok ((runBlockAt_apply p s).trans hblock)]
    exact ih hu (by rw [hframe]; exact hprog) hrest

theorem runMcu_apply (s : State) : runMcu s = if s.scan.scanN = 1 then runBlock s else forEach s.mcuBlocks runBlockAt s := by
  rw [runMcu, get_bind]
  by_cases h : s.scan.scanN = 1
  · rw [if_pos h]
    exact congrFun (if_pos (beq_iff_eq.2 h)) s
  · rw [if_neg h]
    exact congrFun (if_neg (mt beq_iff_eq.1 h)) s

theorem mcuDone_of_runMcu (hs : s.Running) (hn : s.scan.scanN.toNat ≤ 4) (h : runMcu s = .ok () t) : s.McuDone t := by
  rw [runMcu_apply] at h
  rw [State.McuDone]
  by_cases hone : s.scan.scanN = 1
  · rw [if_pos hone] at h ⊢
    exact blockDone_of_runBlock hs h
  · rw [if_neg hone] at h ⊢
    rw [State.mcuPositions_eq hn]
    exact blocksDone_of_run _ hs h

theorem runMcu_of_mcuDone (hs : s.Running) (hn : s.scan.scanN.toNat ≤ 4) (hprog : s.frame.progressive = true) (h : s.McuDone t) :
    runMcu s = .ok () t := by
  rw [State.McuDone] at h
  rw [runMcu_apply]
  by_cases hone : s.scan.scanN = 1
  · rw [if_pos hone] at h ⊢
    exact runBlock_of_blockDone hs hprog h
  · rw [if_neg hone] at h ⊢
    rw [State.mcuPositions_eq hn] at h
    exact run_of_blocksDone _ hs hprog h

end

/-! ### One MCU and its restart check (R272, R273, R313) -/

section
variable {s t u w : State}

theorem lastMcu_of_runMcu (h : runMcu s = .ok () u) : u.lastMcu = s.lastMcu := by
  have hgrid := State.mcuGrid_of_shape (keeps_runMcu_mcuShape.ok h)
  have hplace := keeps_runMcu_mcuPlace.ok h
  have hi : u.pos.mcuI = s.pos.mcuI := congrArg McuPlace.mcuI hplace
  have hj : u.pos.mcuJ = s.pos.mcuJ := congrArg McuPlace.mcuJ hplace
  rw [State.lastMcu, State.lastMcu, hgrid.1, hgrid.2, hi, hj]

/-- After its blocks an MCU makes the restart check and moves on. -/
theorem mcuStep_of_runMcu (h : runMcu s = .ok () u) : mcuStep s = (restartCheck s.lastMcu >>= fun _ => upd State.nextMcu) u := by
  rw [mcuStep, seq_bind_ok h, look_bind, lastMcu_of_runMcu h]

theorem keeps_restartCheck_mcuShape (last : Bool) : Keeps State.mcuShape (restartCheck last) := by
  have hbits : IgnoresBits State.mcuShape := ⟨fun _ _ _ => rfl, fun _ _ => rfl⟩
  refine hbits.keeps_restartCheck (fun _ _ => rfl) (fun s => ?_) last
  have hcomp (c : Fin 4) : s.resetEntropy.comp.get c = { s.comp.get c with dcPred := 0 } := Vector.getElem_map ..
  simp only [State.mcuShape, hcomp]
  rfl

/-- The check leaves the position, the unit port and the phase. -/
theorem keeps_restartCheck_pos (last : Bool) : Keeps (fun s => (s.pos, s.unit, s.phase)) (restartCheck last) := by
  have hbits : IgnoresBits fun s => (s.pos, s.unit, s.phase) := ⟨fun _ _ _ => rfl, fun _ _ => rfl⟩
  exact hbits.keeps_restartCheck (fun _ _ => rfl) (fun _ => rfl) last

/-- After the check the next position is that after the MCU. -/
theorem nextMcu_of_restartCheck {last : Bool} (h : restartCheck last u = .ok () w) : w.nextMcu = w.setPos u.posAfterMcu := by
  have hpos : w.pos = u.pos := congrArg Prod.fst ((keeps_restartCheck_pos last).ok h)
  rw [State.nextMcu_eq, State.posAfterMcu_of_shape ((keeps_restartCheck_mcuShape last).ok h) hpos]

/-- An MCU with no restart due. -/
theorem mcuStep_notDue (h : runMcu s = .ok () u) (hdue : 0 < (s.todo - 1).toInt ∨ s.lastMcu = true) :
    mcuStep s = .ok () { u with todo := s.todo - 1, pos := u.posAfterMcu } := by
  have htodo : u.todo = s.todo := congrArg McuPlace.todo (keeps_runMcu_mcuPlace.ok h)
  have hcheck := restartCheck_notDue (s := u) (last := s.lastMcu) (by rwa [htodo])
  rw [mcuStep_of_runMcu h, seq_bind_ok hcheck, upd_apply, nextMcu_of_restartCheck hcheck, htodo]
  rfl

/-- RESTART run alone with its operand in the unit port. -/
theorem exec_restart_withLast (u : State) (last : Bool) :
    exec .restart (u.withLast last) =
      settle (u.withLast last) (resultWithLast last (restartCheck last u.unheld)) (fun _ t => .next t) :=
  congrArg (settle (u.withLast last) · fun _ t => .next t) (blind_restartCheck last last u.unheld)

/-! ### One step of SCAN (R210, R247) -/

theorem step_scan (hturn : s.OwnTurn) (hp : s.phase = .scan) (hc : s.cancels = false) : step s = runOp scanStep s := by
  rw [step_ownTurn hturn, sequencerStep, phaseStep, hp, hc]
  rfl

theorem scanStep_done (h : s.scanDone = true) : scanStep s = endOfScan s := by
  rw [scanStep, look_bind, h]
  rfl

theorem scanStep_mcu (h : s.scanDone = false) : scanStep s = mcuStep s := by
  rw [scanStep, look_bind, h]
  rfl

/-- One trailing RST is dropped (R247). -/
theorem State.leaveScan_eq (s : State) :
    s.leaveScan = { s with
      phase := .frame
      bits := if 0xD0 ≤ s.bits.marker.toNat ∧ s.bits.marker.toNat ≤ 0xD7 then { s.bits with marker := 0xFF } else s.bits } := by
  have hrst : isRst s.bits.marker = true ↔ 0xD0 ≤ s.bits.marker.toNat ∧ s.bits.marker.toNat ≤ 0xD7 := by
    rw [isRst, Bool.and_eq_true, decide_eq_true_eq, decide_eq_true_eq]
  rw [State.leaveScan]
  by_cases h : 0xD0 ≤ s.bits.marker.toNat ∧ s.bits.marker.toNat ≤ 0xD7
  · rw [if_pos (hrst.2 h), if_pos h]
    rfl
  · rw [if_neg (mt hrst.1 h), if_neg h]
    rfl

theorem endOfScan_latched (h : s.bits.marker ≠ 0xFF) : endOfScan s = .ok () s.leaveScan := by
  have hnone : (s.bits.marker == 0xFF) = false := beq_eq_false_iff_ne.2 h
  rw [endOfScan, look_bind, hnone]
  rfl

theorem endOfScan_seeks (h : s.bits.marker = 0xFF) (hseek : seekMarker s = .ok () t) : endOfScan s = .ok () t.leaveScan := by
  have hnone : (s.bits.marker == 0xFF) = true := beq_iff_eq.2 h
  rw [endOfScan, look_bind, hnone]
  exact seq_bind_ok hseek _

theorem seekMarker_ecs {ds : List (Byte × Nat)} {k : Nat} {m : Byte} {rest : List Byte} (h0 : m ≠ 0) (hff : m ≠ 0xFF)
    (h : s.port.input = ecsBytes ds ++ (markerBytes k m ++ rest)) :
    seekMarker s = .ok () { s.consumed ((ecsBytes ds).length + (k + 2)) with bits := { s.bits with marker := m } } := by
  have hn : ds.length < s.port.input.length := by
    have hle := length_le_ecsBytes ds
    simp only [h, List.length_append, markerBytes, List.length_cons]
    omega
  rw [seekMarker, supplied, look_bind]
  exact seekLoop_ecs h0 hff hn h

/-- The end of a scan that seeks its marker (R247, R248). -/
theorem endOfScan_ecs {ds : List (Byte × Nat)} {k : Nat} {m : Byte} {rest : List Byte} (hm : s.bits.marker = 0xFF) (h0 : m ≠ 0)
    (hff : m ≠ 0xFF) (h : s.port.input = ecsBytes ds ++ (markerBytes k m ++ rest)) :
    endOfScan s = .ok () { s.consumed ((ecsBytes ds).length + (k + 2)) with
      phase := .frame
      bits := if 0xD0 ≤ m.toNat ∧ m.toNat ≤ 0xD7 then s.bits else { s.bits with marker := m } } := by
  have hsame : ({ s.bits with marker := 0xFF } : BitMachine) = s.bits := by rw [← hm]
  have hbits : (if 0xD0 ≤ m.toNat ∧ m.toNat ≤ 0xD7 then ({ s.bits with marker := 0xFF } : BitMachine) else { s.bits with marker := m }) =
      if 0xD0 ≤ m.toNat ∧ m.toNat ≤ 0xD7 then s.bits else { s.bits with marker := m } := if_congr Iff.rfl hsame rfl
  rw [endOfScan_seeks hm (seekMarker_ecs h0 hff h), State.leaveScan_eq, ← hbits]

end

theorem State.Decodes.inPlane_eq {s t : State} (h : s.Decodes t) (c : Fin 4) (y x : Nat) : t.inPlane c y x = s.inPlane c y x := by
  have halloc : t.planesAllocated = s.planesAllocated := (congrArg State.planesAllocated h.rest :)
  rw [State.inPlane, halloc, h.get_eq]
  rfl

/-- A block inside an EOB run of a first AC scan (R278). -/
theorem runMcu_inRun {s : State} (hprog : s.frame.progressive = true) (hone : s.scan.scanN = 1) (hac : s.scan.specStart ≠ 0)
    (hfirst : s.scan.succHigh = 0) (hrun : s.scan.eobRun ≠ 0) : runMcu s = .ok () s.runCounted := by
  have hop : s.blockOp = 0x13 := by rw [blockOp_progressive hprog, if_pos ⟨hone, hac⟩, if_pos hfirst]
  rw [runMcu_apply, if_pos hone, runBlock_apply, hop]
  exact blkAcFirst_inRun hrun

theorem State.posAfterMcu_single {s : State} (h : s.scan.scanN = 1) :
    s.posAfterMcu = if s.pos.mcuI.toNat + 1 = ceilDiv (s.comp.get (idx2 (s.scan.order.get 0))).x.toNat 8 then
      { s.pos with mcuI := 0, mcuJ := s.pos.mcuJ + 1 } else { s.pos with mcuI := s.pos.mcuI + 1 } := by
  rw [State.posAfterMcu, if_pos h]

/-- A step on the blocks of an MCU ends as its restart check, run alone, ends (R313). -/
theorem runOp_mcuStep {s u m : State} (hmcu : runMcu s.unheld = .ok () u) (hu : u.Running) (hunit : u.unit = s.unit)
    (hrestart : exec .restart (u.withLast s.lastMcu) = .next m) (hin : m.ctl.stallIn = false) :
    runOp mcuStep s = .next { m with unit := s.unit, pos := if m.phase = .scan then u.posAfterMcu else u.pos } := by
  have hkeeps := keeps_restartCheck_pos s.lastMcu
  have hmcuStep := mcuStep_of_runMcu hmcu
  rw [exec_restart_withLast, hu.1] at hrestart
  cases hcheck : restartCheck s.lastMcu u with
  | ok a w =>
    have hkept := hkeeps.ok hcheck
    have hw : w.unit = s.unit := (congrArg (fun p => p.2.1) hkept).trans hunit
    have hphase : (w.withLast s.lastMcu).phase = .scan := (congrArg (fun p => p.2.2) hkept).trans hu.2
    rw [hcheck] at hrestart
    cases hrestart
    rw [if_pos hphase, ← hw]
    exact runOp_ok (hmcuStep.trans ((seq_bind_ok hcheck _).trans (congrArg _ (nextMcu_of_restartCheck hcheck))))
  | error e w =>
    have hkept := hkeeps.error hcheck
    have hw : w.unit = s.unit := (congrArg (fun p => p.2.1) hkept).trans hunit
    have hpos : w.pos = u.pos := congrArg Prod.fst hkept
    rw [hcheck] at hrestart
    cases e with
    | raise e =>
      cases hrestart
      have herror : ((w.withLast s.lastMcu).takeError e).phase ≠ .scan := fun h => by cases h
      rw [if_neg herror, ← hw, ← hpos]
      exact runOp_raise (hmcuStep.trans (seq_bind_error hcheck _))
    | stall =>
      cases hrestart
      cases hin
    | fault f => cases hrestart

/-- Settles O60: the end of the scan; else the blocks of one MCU, which run as their instructions do, and the check after them. -/
theorem scanSteps : Obligations.ScanSteps := by
  refine ⟨fun s hturn hp hc hdone hm => ?_, fun s ds k m rest hturn hp hc hdone hm h0 hff hin => ?_,
    fun s hturn hp hc hdone hprog hone hac hfirst hrun hdue => ?_, fun s t hturn hp hc hdone _ h4 hstep hphase hin => ?_,
    fun s u m hturn hp hc hdone _ h4 hprog hmcu hrestart hin => ?_,
    fun s b hturn hp hc hdone hseq hone hblk hphase hin hplane hdue => ?_⟩
  · rw [step_scan hturn hp hc]
    refine runOp_ok ?_
    rw [scanStep_done (s := s.unheld) hdone, endOfScan_latched (s := s.unheld) hm, State.leaveScan_eq]
    rfl
  · rw [step_scan hturn hp hc]
    refine runOp_ok ?_
    rw [scanStep_done (s := s.unheld) hdone]
    exact endOfScan_ecs (s := s.unheld) hm h0 hff hin
  · have hmcu := runMcu_inRun (s := s.unheld) hprog hone hac hfirst hrun
    have hpos := State.posAfterMcu_single (s := s.unheld.runCounted) hone
    rw [step_scan hturn hp hc]
    refine runOp_ok ?_
    rw [scanStep_mcu (s := s.unheld) hdone, mcuStep_notDue hmcu hdue, hpos]
    rfl
  · have hs : s.unheld.Running := ⟨rfl, hp⟩
    rw [step_scan hturn hp hc] at hstep
    have hrun := runOp_completes hstep hphase hin
    rw [scanStep_mcu (s := s.unheld) hdone] at hrun
    obtain ⟨⟨⟩, u, hmcu, -⟩ := exists_of_seq_bind_ok hrun
    rw [mcuStep_of_runMcu hmcu] at hrun
    obtain ⟨⟨⟩, w, hcheck, ⟨⟩⟩ := exists_of_seq_bind_ok hrun
    have hplace := keeps_runMcu_mcuPlace.ok hmcu
    have hu := hs.of_place hplace
    have hkept := (keeps_restartCheck_pos _).ok hcheck
    have hw : w.unit = s.unit := (congrArg (fun p => p.2.1) hkept).trans (congrArg McuPlace.unit hplace)
    refine ⟨u, w.withLast s.lastMcu, mcuDone_of_runMcu hs h4 hmcu, ?_, ?_⟩
    · refine (exec_restart_withLast u s.lastMcu).trans ?_
      rw [hu.1, show restartCheck s.lastMcu u = .ok () w from hcheck]
      rfl
    · rw [nextMcu_of_restartCheck hcheck, ← hw]
      rfl
  · have hs : s.unheld.Running := ⟨rfl, hp⟩
    have hrun := runMcu_of_mcuDone hs h4 hprog hmcu
    have hplace := keeps_runMcu_mcuPlace.ok hrun
    have hend := runOp_mcuStep hrun (hs.of_place hplace) (congrArg McuPlace.unit hplace) hrestart hin
    rw [step_scan hturn hp hc, ← hend]
    exact congrArg (settle s · _) (scanStep_mcu (s := s.unheld) hdone)
  · have hs : s.unheld.Running := ⟨rfl, hp⟩
    have hdecoded := runOp_completes hblk hphase hin
    have hdec := (decoding_blkBaseline s.unheld).ok hdecoded
    obtain ⟨u, hplace, hplaced⟩ := placeTransform_ok (s := b) fun y x hy hx => by
      rw [hdec.inPlane_eq, hdec.blockComp_eq, hdec.blockRow_eq, hdec.blockCol_eq]
      exact hplane y x hy hx
    rw [hdec.blockComp_eq, hdec.blockRow_eq, hdec.blockCol_eq] at hplaced
    have hblock : runBlock s.unheld = .ok () u := by
      rw [runBlock_baseline (s := s.unheld) hseq]
      exact (seq_bind_ok hdecoded _).trans hplace
    have hmcu : runMcu s.unheld = .ok () u := by
      rw [runMcu_apply]
      exact (if_pos hone).trans hblock
    have hpos : u.pos = s.unheld.pos := (keeps_runBlock ignoresBlocks_pos).ok hblock
    have hnext := State.posAfterMcu_of_shape (keeps_runBlock_mcuShape.ok hblock) hpos
    refine ⟨_, u, ?_, hplaced, rfl⟩
    rw [step_scan hturn hp hc]
    refine runOp_ok ?_
    rw [scanStep_mcu (s := s.unheld) hdone, mcuStep_notDue hmcu hdue, hnext]
    rfl

end Sys2Proof.Machine

/-! PROOFS of the statement about the restart FSM (44_restart_fsm.md): a due restart check as a function of the filled bit machine, and
the fill in each state that RESTART can find. -/

namespace Sys2Proof.Machine

/-- Appending data bytes latches no marker (R180). -/
@[simp] theorem BitMachine.appendAll_marker (m : BitMachine) (ds : List (Byte × Nat)) : (m.appendAll ds).marker = m.marker := by
  induction ds generalizing m with
  | nil => rfl
  | cons d ds ih => exact ih _

theorem isRst_iff {m : Byte} : isRst m = true ↔ 0xD0 ≤ m.toNat ∧ m.toNat ≤ 0xD7 := by
  rw [isRst, Bool.and_eq_true, decide_eq_true_eq, decide_eq_true_eq]

section
variable {s f : State} {n : Nat}

theorem State.filledTo_enough (h : (n : Int) ≤ s.bits.count) : s.FilledTo n s.unheld := by
  rw [State.FilledTo, if_pos h]

theorem State.Filled.filledTo (hf : s.Filled f) (h0 : 0 ≤ s.bits.count) (hshort : s.bits.count < (n : Int)) : s.FilledTo n f := by
  rw [State.FilledTo, if_neg (Int.not_le.2 hshort)]
  exact ⟨h0, hf⟩

/-! ### A due restart (R313) -/

/-- The check that finds a restart due fills the bit machine, and the marker latched then decides. -/
theorem restartCheck_due (hdue : (s.todo - 1).toInt ≤ 0) (hfill : fillBelow 24 (s.setTodo (s.todo - 1)) = .ok () f) :
    restartCheck false s = if 0xD0 ≤ f.bits.marker.toNat ∧ f.bits.marker.toNat ≤ 0xD7 then .ok () f.resetEntropy
      else .error (.raise .noResetMarker) f := by
  have hcheck : restartCheck false s = (check (!isRst f.bits.marker) .noResetMarker >>= fun _ => upd State.resetEntropy) f := by
    rw [restartCheck, upd_bind, look_bind, State.setTodo_todo, decide_eq_true hdue]
    exact (seq_bind_ok hfill _).trans (look_bind ..)
  rw [hcheck]
  by_cases hrst : 0xD0 ≤ f.bits.marker.toNat ∧ f.bits.marker.toNat ≤ 0xD7
  · rw [if_pos hrst, isRst_iff.2 hrst]
    rfl
  · rw [if_neg hrst, Bool.eq_false_iff.2 (mt isRst_iff.1 hrst)]
    rfl

/-- RESTART with a restart due, by the marker of the filled bit machine. -/
theorem exec_restart_due (hdue : (s.todo - 1).toInt ≤ 0) (hlast : s.unit.last = false) (hf : (s.setTodo (s.todo - 1)).FilledTo 24 f) :
    exec .restart s = if 0xD0 ≤ f.bits.marker.toNat ∧ f.bits.marker.toNat ≤ 0xD7 then .next f.resetEntropy
      else .next (f.takeError .noResetMarker) := by
  have hcheck := restartCheck_due (s := s.unheld) hdue (hf.fillBelow_eq (by decide))
  have hexec : exec .restart s = runOp (restartCheck false) s := congrArg (fun last => runOp (restartCheck last) s) hlast
  rw [hexec]
  split_ifs at hcheck ⊢
  · exact runOp_ok hcheck
  · exact runOp_raise hcheck

theorem exec_restart_resets (hdue : (s.todo - 1).toInt ≤ 0) (hlast : s.unit.last = false)
    (hf : (s.setTodo (s.todo - 1)).FilledTo 24 f) (hrst : 0xD0 ≤ f.bits.marker.toNat ∧ f.bits.marker.toNat ≤ 0xD7) :
    exec .restart s = .next f.resetEntropy := by
  rw [exec_restart_due hdue hlast hf, if_pos hrst]

theorem exec_restart_fails (hdue : (s.todo - 1).toInt ≤ 0) (hlast : s.unit.last = false)
    (hf : (s.setTodo (s.todo - 1)).FilledTo 24 f) (hrst : ¬(0xD0 ≤ f.bits.marker.toNat ∧ f.bits.marker.toNat ≤ 0xD7)) :
    exec .restart s = .next (f.takeError .noResetMarker) := by
  rw [exec_restart_due hdue hlast hf, if_neg hrst]

end

/-- Settles O58: the clauses are what the fill leaves in each state, and the filled machine's marker decides. -/
theorem restartMachine : Obligations.RestartMachine := by
  refine ⟨fun _ => rfl, fun s hdue => runOp_ok (restartCheck_notDue (s := s.unheld) hdue), fun s hdue hlast hlo hhi hbits => ?_,
    fun s hdue hlast hrst h24 => exec_restart_fails hdue hlast (State.filledTo_enough h24) hrst,
    fun s ds k m rest hdue hlast h0 h24 hopen hm0 hff hlen hin => ?_,
    fun s ds rest hdue hlast h0 h24 hopen hrst hlen hin => ?_, fun s hdue hlast h0 h24 hstop hrst => ?_⟩
  · by_cases h24 : 24 ≤ s.bits.count
    · exact (exec_restart_resets hdue hlast (State.filledTo_enough h24) ⟨hlo, hhi⟩ :)
    · obtain ⟨h0, hstop⟩ := hbits.resolve_left h24
      have hf : (s.setTodo (s.todo - 1)).Filled _ := .inl ⟨hstop, rfl⟩
      exact (exec_restart_resets hdue hlast (hf.filledTo h0 (Int.not_le.1 h24)) ⟨hlo, hhi⟩ :)
  · have hf : (s.setTodo (s.todo - 1)).Filled _ := .inr (.inr ⟨hopen, ds, k, m, rest, hlen, hm0, hff, hin, rfl⟩)
    exact exec_restart_due hdue hlast (hf.filledTo h0 h24)
  · have hf : (s.setTodo (s.todo - 1)).Filled _ := .inr (.inl ⟨hopen, ds, rest, hlen, hin, rfl⟩)
    refine exec_restart_fails hdue hlast (hf.filledTo h0 h24) ?_
    rwa [← BitMachine.appendAll_marker s.bits ds] at hrst
  · have hf : (s.setTodo (s.todo - 1)).Filled _ := .inl ⟨hstop, rfl⟩
    exact exec_restart_fails hdue hlast (hf.filledTo h0 h24) hrst

end Sys2Proof.Machine

/-! PROOFS of the statement about the inverse DCT (45_idct.md): a pass of words is the pass of exact integers, as words are the integers
modulo 2^32 and a sum is read as a signed word only at its shift; then the two passes, and a pass whose inputs 1 to 7 are 0. -/

namespace Sys2Proof.Machine

/-! ### Words as integers -/

/-- An arithmetic shift of a wrapped sum is a floor division of the word's value (R334). -/
theorem sshiftRight_kst (v : Int) (S : Nat) : (kst v).sshiftRight S = kst ((kst v).toInt / 2 ^ S) := by
  rw [BitVec.sshiftRight, Int.shiftRight_eq_div_pow]
  rfl

/-- The output step of IDCT1D shifts the exact sum, wrapped once (R331, R332, R334). -/
theorem passOut_idct1d (B : Int) (S : Nat) (a : Nat → Int) {r : Nat} (hr : r < 8) :
    passOut (kst B) S (idct1d (kst (a 0)) (kst (a 1)) (kst (a 2)) (kst (a 3)) (kst (a 4)) (kst (a 5)) (kst (a 6)) (kst (a 7))) r =
      kst (dctPass B S a r) := by
  have hcast (v : Int) : kst v = (v : BitVec 32) := rfl
  rw [dctPass, ← kst, ← sshiftRight_kst]
  interval_cases r <;>
  · refine congrArg (BitVec.sshiftRight · S) ?_
    simp only [idct1d, idctEven, idctOdd, dctSum, hcast, List.getD_cons_zero, List.getD_cons_succ]
    push_cast
    ring

/-- A pass output is the value of an s32, so as a word it has that value. -/
theorem toInt_kst_dctPass (B : Int) (S : Nat) (a : Nat → Int) (r : Nat) : (kst (dctPass B S a r)).toInt = dctPass B S a r := by
  rw [dctPass, ← kst, ← sshiftRight_kst, BitVec.toInt_sshiftRight, Int.shiftRight_eq_div_pow]
  rfl

/-- A value that fits an s32 is not wrapped. -/
theorem toInt_kst {v : Int} (hlo : -2 ^ 31 ≤ v) (hhi : v < 2 ^ 31) : (kst v).toInt = v :=
  BitVec.toInt_ofInt_eq_self (by decide) hlo hhi

/-! ### The two passes (R333, R335) -/

theorem columnFlat_iff {d : Vector (BitVec 16) 64} {i : Nat} :
    columnFlat d i = true ↔ ∀ k : Fin 7, at? d (8 * (k.val + 1) + i) 0 = 0 := by
  simp [columnFlat, Fin.forall_fin_succ]

theorem blockAt_eq_kst (d : Vector (BitVec 16) 64) (r c : Nat) : blockAt d r c = kst (at? d (8 * r + c) 0).toInt := rfl

theorem passOut_columnKernel (d : Vector (BitVec 16) 64) (i : Nat) {r : Nat} (hr : r < 8) :
    passOut (kst 512) 10 (columnKernel d i) r = kst (dctPass 512 10 (fun k => (at? d (8 * k + i) 0).toInt) r) :=
  passOut_idct1d 512 10 (fun k => (at? d (8 * k + i) 0).toInt) hr

theorem columnPass_eq (d : Vector (BitVec 16) 64) (i : Nat) {r : Nat} (hr : r < 8) : columnPass d r i = kst (dctColumn d i r) := by
  unfold columnPass dctColumn
  simp only [columnFlat_iff]
  split
  · rw [blockAt_eq_kst, Nat.mul_zero, Nat.zero_add]
    exact (BitVec.ofInt_mul ..).symm
  · exact passOut_columnKernel d i hr

theorem at?_columns (d : Vector (BitVec 16) 64) {r c : Nat} (hr : r < 8) (hc : c < 8) :
    at? (columns d) (8 * r + c) 0 = kst (dctColumn d c r) := by
  have hrow : (8 * r + c) / 8 = r := by omega
  have hcol : (8 * r + c) % 8 = c := by omega
  rw [at?_of_lt _ (by omega), columns, Vector.getElem_ofFn, hrow, hcol, columnPass_eq d c hr]

/-- `clamp255` (R9) by the truncation of negative values to 0. -/
theorem clamp255_eq (v : Int) : clamp255 v = BitVec.ofNat 8 (min 255 v.toNat) := by
  unfold clamp255
  split_ifs with hneg hbig
  · rw [Int.toNat_of_nonpos hneg.le]
    rfl
  · rw [Nat.min_eq_left (by omega)]
    rfl
  · lift v to Nat using Int.not_lt.1 hneg
    rw [Int.toNat_natCast, Nat.min_eq_right (by omega), BitVec.ofInt_natCast]

theorem rowPass_columns (d : Vector (BitVec 16) 64) {r c : Nat} (hr : r < 8) (hc : c < 8) :
    rowPass (columns d) r c = dctPixel d r c := by
  have hkernel : rowKernel (columns d) r = idct1d (kst (dctColumn d 0 r)) (kst (dctColumn d 1 r)) (kst (dctColumn d 2 r))
      (kst (dctColumn d 3 r)) (kst (dctColumn d 4 r)) (kst (dctColumn d 5 r)) (kst (dctColumn d 6 r)) (kst (dctColumn d 7 r)) := by
    simp only [rowKernel, at?_columns d hr, Nat.reduceLT]
  rw [rowPass, hkernel, passOut_idct1d 16842752 17 (fun i => dctColumn d i r) hc, clamp255_eq, toInt_kst_dctPass, dctPixel]

theorem idctBlock_eq (d : Vector (BitVec 16) 64) :
    idctBlock d = Vector.ofFn (fun i : Fin 64 => dctPixel d (i.val / 8) (i.val % 8)) :=
  congrArg Vector.ofFn (funext fun i => rowPass_columns d (by omega) (by omega))

/-! ### A pass whose inputs 1 to 7 are 0 (R338, R339) -/

/-- The kernel gives 4096 times its first input at every output, and no sum wraps. -/
theorem dctPass_flat {B : Int} {a : Nat → Int} {r : Nat} (S : Nat) (hr : r < 8) (hflat : ∀ k, 1 ≤ k → k < 8 → a k = 0)
    (hlo : -2 ^ 31 ≤ a 0 * 4096 + B) (hhi : a 0 * 4096 + B < 2 ^ 31) : dctPass B S a r = (a 0 * 4096 + B) / 2 ^ S := by
  have hsum : dctSum a r = a 0 * 4096 := by
    interval_cases r <;> simp [dctSum, hflat]
  rw [dctPass, hsum, ← kst, toInt_kst hlo hhi]

theorem passOut_columnFlat {d : Vector (BitVec 16) 64} {i r : Nat} (hr : r < 8) (hflat : columnFlat d i = true) :
    passOut (kst 512) 10 (columnKernel d i) r = blockAt d 0 i * 4 := by
  have hzero (k : Nat) (hk : 1 ≤ k) (hk' : k < 8) : (at? d (8 * k + i) 0).toInt = 0 := by
    obtain ⟨k, rfl⟩ := Nat.exists_eq_add_of_le' hk
    rw [columnFlat_iff.1 hflat ⟨k, by omega⟩]
    rfl
  have hlo := (at? d (8 * 0 + i) 0).le_toInt
  have hhi := (at? d (8 * 0 + i) 0).toInt_lt
  have hquot (x : Int) : (x * 4096 + 512) / 2 ^ 10 = x * 4 := by omega
  rw [passOut_columnKernel d i hr, dctPass_flat 10 hr hzero (by omega) (by omega), hquot]
  exact BitVec.ofInt_mul ..

theorem columnPass_flat {d : Vector (BitVec 16) 64} {i : Nat} (r : Nat) (hflat : columnFlat d i = true) :
    columnPass d r i = blockAt d 0 i * 4 := if_pos hflat

section
variable {d : Vector (BitVec 16) 64} (hd : ∀ i : Fin 64, i ≠ 0 → d.get i = 0)
include hd

/-- Every column of a DC-only block takes the shortcut. -/
theorem dctColumn_dcOnly {i : Nat} (hi : i < 8) (r : Nat) : dctColumn d i r = if i = 0 then (d.get 0).toInt * 4 else 0 := by
  have hflat (k : Fin 7) : at? d (8 * (k.val + 1) + i) 0 = 0 :=
    (at?_val d ⟨8 * (k.val + 1) + i, by omega⟩ 0).trans (hd _ (Fin.ne_of_val_ne (by simp)))
  rw [dctColumn, if_pos hflat]
  split_ifs with h0
  · rw [h0]
    rfl
  · rw [at?_val d ⟨i, by omega⟩, hd _ (Fin.ne_of_val_ne h0)]
    rfl

theorem dctPixel_dcOnly {r c : Nat} (hc : c < 8) :
    dctPixel d r c = BitVec.ofNat 8 (min 255 (128 + ((d.get 0).toInt + 4) / 8).toNat) := by
  have hdc : dctColumn d 0 r = (d.get 0).toInt * 4 := dctColumn_dcOnly hd (by decide) r
  have hzero (k : Nat) (hk : 1 ≤ k) (hk' : k < 8) : dctColumn d k r = 0 :=
    (dctColumn_dcOnly hd hk' r).trans (if_neg (by omega))
  have hlo := (d.get 0).le_toInt
  have hhi := (d.get 0).toInt_lt
  have hquot (x : Int) : (x * 4 * 4096 + 16842752) / 2 ^ 17 = 128 + (x + 4) / 8 := by omega
  rw [dctPixel, dctPass_flat 17 hc hzero (by omega) (by omega), hdc, hquot]

theorem idctBlock_dcOnly :
    idctBlock d = Vector.replicate 64 (BitVec.ofNat 8 (min 255 (128 + ((d.get 0).toInt + 4) / 8).toNat)) := by
  rw [idctBlock_eq]
  ext i hi
  rw [Vector.getElem_ofFn, Vector.getElem_replicate, dctPixel_dcOnly hd (by omega)]

end

theorem exec_idct (s : State) :
    exec .idct s = .next { s.unheld with blk := { s.blk with px := idctBlock s.blk.data } } := rfl

/-- Settles O54: the blocks of the first clause and the columns of the second are passes whose inputs 1 to 7 are 0; the third is the
two passes by exact integers. -/
theorem idctOfFlatBlocks : Obligations.IdctOfFlatBlocks := by
  refine ⟨fun s hd => ?_, fun d i r hflat => ⟨passOut_columnFlat r.isLt hflat, columnPass_flat r.val hflat⟩, fun s d => ?_⟩
  · rw [exec_idct, idctBlock_dcOnly hd]
  · exact ⟨by rw [exec_idct, idctBlock_eq], idctBlock_eq d⟩

end Sys2Proof.Machine

/-! PROOFS of the statement about the resampler kernels (46_resampler.md): an output row put together from equally long pieces, one
for each sample of the operand row; the pieces of each kernel. -/

namespace Sys2Proof.Machine

/-! ### Rows in equally long pieces -/

/-- Element `j` of piece `i` of a list made of pieces of length `m`. -/
theorem getD_flatMap_pieces {α β : Type} {f : α → List β} {m : Nat} (hm : ∀ a, (f a).length = m) {l : List α} {i j : Nat}
    (hi : i < l.length) (hj : j < m) (d : β) : (l.flatMap f).getD (i * m + j) d = (f l[i]).getD j d := by
  induction l generalizing i with
  | nil => exact absurd hi (Nat.not_lt_zero i)
  | cons a l ih =>
    rw [List.flatMap_cons]
    cases i with
    | zero => rw [Nat.zero_mul, Nat.zero_add, List.getD_append _ _ _ _ (by rwa [hm])]; rfl
    | succ i =>
      have hskip : (i + 1) * m + j = m + (i * m + j) := by rw [Nat.succ_mul]; omega
      rw [List.getD_append_right _ _ _ _ (by rw [hm]; omega), hm, hskip, Nat.add_sub_cancel_left, ih (Nat.lt_of_succ_lt_succ hi)]
      rfl

theorem length_flatMap_pieces {α β : Type} {f : α → List β} {m : Nat} (hm : ∀ a, (f a).length = m) (l : List α) :
    (l.flatMap f).length = m * l.length := by
  simp [List.length_flatMap, hm, Nat.mul_comm]

/-- Sample `j` of the two that operand sample `i` gives. -/
theorem getD_flatMap_range_pairs {f : Nat → List Byte} (hf : ∀ i, (f i).length = 2) {w i j : Nat} (hi : i < w) (hj : j < 2) :
    ((List.range w).flatMap f).getD (2 * i + j) 0 = (f i).getD j 0 := by
  rw [Nat.mul_comm, getD_flatMap_pieces hf (by rwa [List.length_range]) hj, List.getElem_range]

/-! ### Weighted samples -/

theorem smp_lt (row : List Byte) (i : Nat) : smp row i < 256 := (row.getD i 0).isLt

theorem blendHV_lt (near far : List Byte) (i : Nat) : blendHV near far i < 1021 := by
  have hnear := smp_lt near i
  have hfar := smp_lt far i
  unfold blendHV
  omega

theorem toNat_ofNat_shiftRight {v k : Nat} (hv : v < 2 ^ 8 * 2 ^ k) : (BitVec.ofNat 8 (v >>> k)).toNat = v / 2 ^ k := by
  rw [BitVec.toNat_ofNat, Nat.shiftRight_eq_div_pow, Nat.mod_eq_of_lt ((Nat.div_lt_iff_lt_mul (Nat.two_pow_pos k)).2 hv)]

/-- The blend of two samples in quarters (R354, R355). -/
theorem toNat_quarters {x y : Nat} (hx : x < 256) (hy : y < 256) :
    (BitVec.ofNat 8 ((3 * x + y + 2) >>> 2)).toNat = (3 * x + y + 2) / 4 :=
  toNat_ofNat_shiftRight (by omega)

/-! ### RS_V2 (R354) -/

section
variable (near far : List Byte)

theorem length_kernelV2 : (kernelV2 near far).length = near.length := by
  rw [kernelV2, List.length_map, List.length_range]

theorem toNat_getD_kernelV2 {i : Nat} (hi : i < near.length) :
    ((kernelV2 near far).getD i 0).toNat = (3 * smp near i + smp far i + 2) / 4 := by
  rw [List.getD_eq_getElem _ _ (by rwa [length_kernelV2])]
  simp only [kernelV2, List.getElem_map, List.getElem_range]
  exact toNat_quarters (smp_lt near i) (smp_lt far i)

/-! ### RS_H2 (R355) -/

theorem pairH2_first (w : Nat) :
    pairH2 near w 0 = [near.getD 0 0, BitVec.ofNat 8 ((3 * smp near 0 + smp near 1 + 2) >>> 2)] := if_pos rfl

theorem pairH2_last (n : Nat) : pairH2 near (n + 2) (n + 1) =
    [BitVec.ofNat 8 ((3 * smp near n + smp near (n + 1) + 2) >>> 2), near.getD (n + 1) 0] :=
  (if_neg n.succ_ne_zero).trans (if_pos rfl)

theorem pairH2_mid {w i : Nat} (h0 : i ≠ 0) (hw : i + 1 ≠ w) : pairH2 near w i =
    [BitVec.ofNat 8 ((3 * smp near i + 2 + smp near (i - 1)) >>> 2),
      BitVec.ofNat 8 ((3 * smp near i + 2 + smp near (i + 1)) >>> 2)] :=
  (if_neg h0).trans (if_neg hw)

theorem length_pairH2 (w i : Nat) : (pairH2 near w i).length = 2 := by
  unfold pairH2
  split_ifs <;> rfl

theorem length_kernelH2 : (kernelH2 near).length = 2 * near.length := by
  unfold kernelH2
  split_ifs with h1
  · rw [h1]; rfl
  · rw [length_flatMap_pieces (length_pairH2 near near.length), List.length_range]

theorem kernelH2_one (h1 : near.length = 1) : kernelH2 near = [near.getD 0 0, near.getD 0 0] := if_pos h1

theorem getD_kernelH2 (h2 : 2 ≤ near.length) {i j : Nat} (hi : i < near.length) (hj : j < 2) :
    (kernelH2 near).getD (2 * i + j) 0 = (pairH2 near near.length i).getD j 0 := by
  rw [kernelH2, if_neg (by omega), getD_flatMap_range_pairs (length_pairH2 near near.length) hi hj]

theorem toNat_getD_kernelH2_first (h2 : 2 ≤ near.length) :
    ((kernelH2 near).getD 0 0).toNat = smp near 0 ∧
      ((kernelH2 near).getD 1 0).toNat = (3 * smp near 0 + smp near 1 + 2) / 4 := by
  have hpair (j : Nat) (hj : j < 2) := getD_kernelH2 near h2 (i := 0) (by omega) hj
  rw [pairH2_first] at hpair
  exact ⟨congrArg BitVec.toNat (hpair 0 (by decide)),
    (congrArg BitVec.toNat (hpair 1 (by decide))).trans (toNat_quarters (smp_lt near 0) (smp_lt near 1))⟩

theorem toNat_getD_kernelH2_last (h2 : 2 ≤ near.length) :
    ((kernelH2 near).getD (2 * near.length - 2) 0).toNat = (3 * smp near (near.length - 2) + smp near (near.length - 1) + 2) / 4 ∧
      ((kernelH2 near).getD (2 * near.length - 1) 0).toNat = smp near (near.length - 1) := by
  obtain ⟨n, hn⟩ := Nat.exists_eq_add_of_le' h2
  have hpair (j : Nat) (hj : j < 2) := getD_kernelH2 near h2 (i := n + 1) (by omega) hj
  rw [hn, pairH2_last] at hpair
  rw [hn]
  exact ⟨(congrArg BitVec.toNat (hpair 0 (by decide))).trans (toNat_quarters (smp_lt near n) (smp_lt near (n + 1))),
    congrArg BitVec.toNat (hpair 1 (by decide))⟩

theorem toNat_getD_kernelH2_mid {i : Nat} (h1 : 1 ≤ i) (hi : i + 2 ≤ near.length) :
    ((kernelH2 near).getD (2 * i) 0).toNat = (3 * smp near i + 2 + smp near (i - 1)) / 4 ∧
      ((kernelH2 near).getD (2 * i + 1) 0).toNat = (3 * smp near i + 2 + smp near (i + 1)) / 4 := by
  have hpair (j : Nat) (hj : j < 2) := getD_kernelH2 near (by omega) (i := i) (by omega) hj
  rw [pairH2_mid near (by omega) (by omega)] at hpair
  have hblend (m : Nat) : (BitVec.ofNat 8 ((3 * smp near i + 2 + smp near m) >>> 2)).toNat =
      (3 * smp near i + 2 + smp near m) / 4 := by
    rw [Nat.add_right_comm]
    exact toNat_quarters (smp_lt near i) (smp_lt near m)
  exact ⟨(congrArg BitVec.toNat (hpair 0 (by decide))).trans (hblend _),
    (congrArg BitVec.toNat (hpair 1 (by decide))).trans (hblend _)⟩

/-! ### RS_HV2 (R356) -/

theorem length_pairHV2 (w i : Nat) : (pairHV2 near far w i).length = 2 := rfl

theorem length_kernelHV2 : (kernelHV2 near far).length = 2 * near.length := by
  rw [kernelHV2, length_flatMap_pieces (length_pairHV2 near far near.length), List.length_range]

theorem getD_kernelHV2 {i j : Nat} (hi : i < near.length) (hj : j < 2) :
    (kernelHV2 near far).getD (2 * i + j) 0 = (pairHV2 near far near.length i).getD j 0 :=
  getD_flatMap_range_pairs (length_pairHV2 near far near.length) hi hj

/-- The vertical blend of the first and the last sample. -/
theorem toNat_vertical (i : Nat) : (BitVec.ofNat 8 ((blendHV near far i + 2) >>> 2)).toNat = (blendHV near far i + 2) / 4 := by
  have hi := blendHV_lt near far i
  exact toNat_ofNat_shiftRight (by omega)

/-- The blend of two neighbouring columns in sixteenths. -/
theorem toNat_sixteenths (i j : Nat) : (BitVec.ofNat 8 ((3 * blendHV near far i + blendHV near far j + 8) >>> 4)).toNat =
    (3 * blendHV near far i + blendHV near far j + 8) / 16 := by
  have hi := blendHV_lt near far i
  have hj := blendHV_lt near far j
  exact toNat_ofNat_shiftRight (by omega)

theorem toNat_getD_kernelHV2_even {i : Nat} (hi : i < near.length) : ((kernelHV2 near far).getD (2 * i) 0).toNat =
    if i = 0 then (blendHV near far 0 + 2) / 4 else (3 * blendHV near far i + blendHV near far (i - 1) + 8) / 16 := by
  refine (congrArg BitVec.toNat (getD_kernelHV2 near far hi (j := 0) (by decide))).trans ?_
  rw [pairHV2, List.getD_cons_zero]
  split_ifs with h0
  · exact toNat_vertical near far 0
  · exact toNat_sixteenths near far i (i - 1)

theorem toNat_getD_kernelHV2_odd {i : Nat} (hi : i < near.length) : ((kernelHV2 near far).getD (2 * i + 1) 0).toNat =
    if i + 1 = near.length then (blendHV near far i + 2) / 4
    else (3 * blendHV near far i + blendHV near far (i + 1) + 8) / 16 := by
  rw [getD_kernelHV2 near far hi (by decide), pairHV2, List.getD_cons_succ, List.getD_cons_zero]
  split_ifs with hlast
  · exact toNat_vertical near far i
  · exact toNat_sixteenths near far i (i + 1)

/-! ### RS_GENERIC (R357) -/

theorem length_kernelGeneric (hs : Nat) : (kernelGeneric hs near).length = hs * near.length :=
  length_flatMap_pieces (fun _ => List.length_replicate) near

theorem getD_kernelGeneric {hs i j : Nat} (hi : i < near.length) (hj : j < hs) :
    (kernelGeneric hs near).getD (i * hs + j) 0 = near.getD i 0 := by
  rw [kernelGeneric, getD_flatMap_pieces (fun _ => List.length_replicate) hi hj, List.getD_replicate _ hj,
    List.getD_eq_getElem _ _ hi]

end

/-! ### The kernels as unit operations (R352) -/

/-- The state after a kernel issued on its own: its row stands in the line buffer of the unit port's component. -/
def State.withLine (s : State) (out : List Byte) : State :=
  s.unheld.setRs (idx2 s.unit.comp) { s.rs.get (idx2 s.unit.comp) with lineBuf := out }

theorem exec_rs1x1 (s : State) : exec .rs1x1 s = .next (s.withLine s.unit.inNear) := rfl

theorem exec_rsV2 (s : State) : exec .rsV2 s = .next (s.withLine (kernelV2 s.unit.inNear s.unit.inFar)) := rfl

theorem exec_rsH2 (s : State) : exec .rsH2 s = .next (s.withLine (kernelH2 s.unit.inNear)) := rfl

theorem exec_rsHv2 (s : State) : exec .rsHv2 s = .next (s.withLine (kernelHV2 s.unit.inNear s.unit.inFar)) := rfl

theorem exec_rsGeneric (s : State) : exec .rsGeneric s =
    .next (s.withLine (kernelGeneric (s.rs.get (idx2 s.unit.comp)).hs.toNat s.unit.inNear)) := rfl

/-- Settles O56: a row is made of equally long pieces, one for each operand sample, so each sample of it is found in its piece. -/
theorem resampleKernels : Obligations.ResampleKernels := by
  intro s
  refine ⟨exec_rs1x1 s, fun _ => ⟨_, exec_rsV2 s, length_kernelV2 _ _, fun i => toNat_getD_kernelV2 _ _⟩,
    fun _ => ⟨_, exec_rsH2 s, length_kernelH2 _, kernelH2_one _, fun h2 => ?_, fun i => toNat_getD_kernelH2_mid _⟩,
    fun hw _ => ⟨_, exec_rsHv2 s, length_kernelHV2 _ _, toNat_getD_kernelHV2_even _ _ hw, ?_, fun i h1 hi => ?_⟩,
    ⟨_, exec_rsGeneric s, length_kernelGeneric _ _, fun i j hi hj => congrArg BitVec.toNat (getD_kernelGeneric _ hi hj)⟩⟩
  · obtain ⟨hfirst, hsecond⟩ := toNat_getD_kernelH2_first _ h2
    exact ⟨hfirst, hsecond, toNat_getD_kernelH2_last _ h2⟩
  · have hidx : 2 * s.unit.inNear.length - 1 = 2 * (s.unit.inNear.length - 1) + 1 := by omega
    rw [hidx]
    exact (toNat_getD_kernelHV2_odd _ _ (by omega)).trans (if_pos (by omega))
  · obtain ⟨n, rfl⟩ := Nat.exists_eq_add_of_le' h1
    exact ⟨(toNat_getD_kernelHV2_odd _ _ (by omega)).trans (if_neg (by omega)),
      (toNat_getD_kernelHV2_even _ _ hi).trans (if_neg (by omega))⟩

end Sys2Proof.Machine

/-! PROOFS of the statements about colour and output (47_color_output.md): the channels of a conversion as exact sums and products; an
output row as a function of the state its step begins in. -/

namespace Sys2Proof.Machine

/-! ### The channels of `ycc` (R375) -/

/-- An exact sum rounded down and saturated (R375). -/
def yccChannel (sum : Int) : Byte := BitVec.ofNat 8 (min 255 (sum / 2 ^ 20).toNat)

/-- A shift by 20 rounds down, with the count an integer or a natural number. -/
theorem shiftRight_twenty (v : Int) : v >>> (20 : Int) = v / 2 ^ 20 ∧ v >>> (20 : Nat) = v / 2 ^ 20 :=
  ⟨(Int.shiftRight_natCast_right v 20).trans (Int.shiftRight_eq_div_pow v 20), Int.shiftRight_eq_div_pow v 20⟩

theorem floor64k_eq (x : Int) : floor64k x = 65536 * (x / 65536) := by
  unfold floor64k
  omega

theorem yccRed_eq (Y Cr : Byte) :
    yccRed Y Cr = yccChannel ((Y.toNat : Int) * 2 ^ 20 + 2 ^ 19 + ((Cr.toNat : Int) - 128) * 1470208) := by
  simp only [yccRed, shiftRight_twenty, clamp255_eq]
  rfl

theorem yccGreen_eq (Y Cb Cr : Byte) : yccGreen Y Cb Cr = yccChannel ((Y.toNat : Int) * 2 ^ 20 + 2 ^ 19 -
    ((Cr.toNat : Int) - 128) * 748800 + 65536 * (((Cb.toNat : Int) - 128) * (-360960) / 65536)) := by
  simp only [yccGreen, shiftRight_twenty, clamp255_eq, floor64k_eq, mul_neg, ← sub_eq_add_neg]
  rfl

theorem yccBlue_eq (Y Cb : Byte) :
    yccBlue Y Cb = yccChannel ((Y.toNat : Int) * 2 ^ 20 + 2 ^ 19 + ((Cb.toNat : Int) - 128) * 1858048) := by
  simp only [yccBlue, shiftRight_twenty, clamp255_eq]
  rfl

/-! ### `blinn` (R379) -/

/-- Two shifts and a carry divide every product of two bytes by 255 and round to nearest. -/
theorem blinn_eq (x y : Byte) : blinn x y = BitVec.ofNat 8 ((2 * (x.toNat * y.toNat) + 255) / 510) := by
  have hbound : x.toNat * y.toNat ≤ 255 * 255 := Nat.mul_le_mul (Nat.le_of_lt_succ x.isLt) (Nat.le_of_lt_succ y.isLt)
  have hround (p : Nat) (hp : p ≤ 255 * 255) : (p + 128 + (p + 128) / 2 ^ 8) / 2 ^ 8 = (2 * p + 255) / 510 := by omega
  rw [← hround _ hbound, blinn, Nat.shiftRight_eq_div_pow, Nat.shiftRight_eq_div_pow]

/-! ### The conversions as unit operations (R373 to R378) -/

/-- The state after a conversion issued on its own: the bytes of the pixel stand in the pixel register. -/
def State.withPixel (s : State) (px : List Byte) : State := { s.unheld with unit := { s.unit with pixel := px } }

section
variable (s : State)

theorem exec_ccGray : exec .ccGray s = .next (s.withPixel (ccGray s.unit.samples)) := rfl

theorem exec_ccRgb : exec .ccRgb s = .next (s.withPixel (ccRgb s.unit.samples)) := rfl

theorem exec_ccYcbcr : exec .ccYcbcr s = .next (s.withPixel (ccYcbcr s.unit.samples)) := rfl

theorem exec_ccCmyk : exec .ccCmyk s = .next (s.withPixel (ccCmyk s.unit.samples)) := rfl

theorem exec_ccYcck : exec .ccYcck s = .next (s.withPixel (ccYcck s.unit.samples)) := rfl

theorem exec_ccYcbcrK : exec .ccYcbcrK s = .next (s.withPixel (ccYcbcrK s.unit.samples)) := rfl

end

/-- Settles O57: the channels of `ycc` are exact sums and those of the other conversions the samples or rounded products. -/
theorem colourConversions : Obligations.ColourConversions := by
  intro s
  have hycc := exec_ccYcbcr s
  have hyccK := exec_ccYcbcrK s
  have hcmyk := exec_ccCmyk s
  have hycck := exec_ccYcck s
  simp only [ccYcck, ccYcbcrK, ccYcbcr, ccCmyk, yccRed_eq, yccGreen_eq, yccBlue_eq, blinn_eq, List.map_cons, List.map_nil]
    at hycc hyccK hcmyk hycck
  exact ⟨exec_ccGray s, exec_ccRgb s, hycc, hyccK, hcmyk, hycck⟩

/-! ### Pieces that run unless a sample is unwritten -/

/-- Where `p` holds the piece runs from `s` to `t` and gives `a`; where it does not, the piece faults. -/
def RunsIf {α : Type} (p : Prop) (m : Seq α) (s : State) (a : α) (t : State) : Prop :=
  (p ∧ m s = .ok a t) ∨ (¬p ∧ ∃ f u, m s = .error (.fault f) u)

namespace RunsIf

variable {α β : Type} {p q : Prop} {m : Seq α} {s t u : State} {a : α} {b : β}

theorem of_ok (hp : p) (h : m s = .ok a t) : RunsIf p m s a t := .inl ⟨hp, h⟩

theorem ok (h : RunsIf p m s a t) (hp : p) : m s = .ok a t := by
  rcases h with ⟨-, h⟩ | ⟨hn, -⟩
  · exact h
  · exact absurd hp hn

theorem congr (h : RunsIf p m s a t) (hpq : p ↔ q) : RunsIf q m s a t := by
  rwa [RunsIf, ← hpq]

theorem bind {f : α → Seq β} (hm : RunsIf p m s a t) (hf : p → RunsIf q (f a) t b u) : RunsIf (p ∧ q) (m >>= f) s b u := by
  rcases hm with ⟨hp, e⟩ | ⟨hp, r, v, e⟩
  · rcases hf hp with ⟨hq, e'⟩ | ⟨hq, r, v, e'⟩
    · exact .inl ⟨⟨hp, hq⟩, (seq_bind_ok e f).trans e'⟩
    · exact .inr ⟨fun h => hq h.2, r, v, (seq_bind_ok e f).trans e'⟩
  · exact .inr ⟨fun h => hp h.1, r, v, seq_bind_error e f⟩

/-- A last line that runs whatever it finds. -/
theorem bind_ok {f : α → Seq β} (hm : RunsIf p m s a t) (hf : f a t = .ok b u) : RunsIf p (m >>= f) s b u :=
  (hm.bind fun _ => of_ok trivial hf).congr (and_iff_left trivial)

end RunsIf

/-! ### A row of a sample plane (R77, R352) -/

/-- The samples of columns `x`, `x + 1`, ... of row `y`, as many as the count says. -/
def State.planeRow (s : State) (c : Fin 4) (y x n : Nat) : List Byte := (List.range' x n).map fun i => (s.sample c y i).getD 0

section
variable {s : State} {c : Fin 4} {y n : Nat}

theorem State.length_planeRow (x : Nat) : (s.planeRow c y x n).length = n := by
  rw [State.planeRow, List.length_map, List.length_range']

theorem State.planeRow_succ (x : Nat) : s.planeRow c y x (n + 1) = (s.sample c y x).getD 0 :: s.planeRow c y (x + 1) n := by
  rw [State.planeRow, List.range'_succ, List.map_cons]
  rfl

/-- A sample that is written is the one read into the row. -/
theorem State.sample_eq_planeRow {i : Nat} (hi : i < n) (h : (s.sample c y i).isSome = true) :
    s.sample c y i = some ((s.planeRow c y 0 n).getD i 0) := by
  obtain ⟨v, hv⟩ := Option.isSome_iff_exists.1 h
  rw [List.getD_eq_getElem _ _ (by rwa [State.length_planeRow])]
  simp [State.planeRow, hv]

/-- A row of which every sample is known. -/
theorem State.planeRow_eq {row : List Byte} (h : ∀ i, i < row.length → s.sample c y i = some (row.getD i 0)) :
    s.planeRow c y 0 row.length = row := by
  refine List.ext_getElem (State.length_planeRow 0) fun i _ hi => ?_
  simp [State.planeRow, h i hi, hi]

theorem runsIf_planeRead (x : Nat) :
    RunsIf ((s.sample c y x).isSome = true) (planeRead c y x) s ((s.sample c y x).getD 0) s := by
  rw [RunsIf, State.sample, planeRead]
  by_cases hin : s.inPlane c y x = true
  · rw [if_pos hin, if_pos hin]
    cases (s.comp.get c).plane.read (s.planeIndex c y x) with
    | some v => exact .inl ⟨rfl, rfl⟩
    | none => exact .inr ⟨Bool.false_ne_true, _, _, rfl⟩
  · rw [if_neg hin, if_neg hin]
    exact .inr ⟨Bool.false_ne_true, _, _, rfl⟩

/-- A row is read if all its samples are written. -/
theorem runsIf_readRow (x : Nat) :
    RunsIf (∀ i, i < n → (s.sample c y (x + i)).isSome = true) (readRow c y x n) s (s.planeRow c y x n) s := by
  induction n generalizing x with
  | zero => exact .of_ok (fun i hi => absurd hi (Nat.not_lt_zero i)) rfl
  | succ n ih =>
    rw [State.planeRow_succ]
    refine ((runsIf_planeRead x).bind fun _ => (ih (x + 1)).bind_ok ?_).congr ?_
    · rfl
    rw [Nat.forall_lt_succ_left]
    simp [Nat.add_assoc, Nat.add_comm 1]

end

/-! ### The resampler records (R350, R352) -/

theorem eq_of_forall_get {α : Type} {n : Nat} {v w : Vector α n} (h : ∀ k : Fin n, v.get k = w.get k) : v = w :=
  Vector.ext fun i hi => h ⟨i, hi⟩

/-- The records with those of the components in the list replaced. -/
def recordsOn (l : List (Fin 4)) (g : Fin 4 → Resampler) (w : Vector Resampler 4) : Vector Resampler 4 :=
  Vector.ofFn fun k => if k ∈ l then g k else w.get k

theorem recordsOn_get (l : List (Fin 4)) (g : Fin 4 → Resampler) (w : Vector Resampler 4) (k : Fin 4) :
    (recordsOn l g w).get k = if k ∈ l then g k else w.get k := by
  simp [recordsOn, Vector.get_eq_getElem]

theorem record_set_get (w : Vector Resampler 4) (j k : Fin 4) (r : Resampler) :
    (w.set j.val r j.isLt).get k = if j = k then r else w.get k := by
  simp only [Vector.get_eq_getElem, Vector.getElem_set, Fin.ext_iff]

/-- The state with the resampler records `w`. -/
def State.withRs (w : Vector Resampler 4) (s : State) : State := { s with rs := w }

/-- A piece per component that rewrites its record, from what it finds there, rewrites those of the list. -/
theorem runsIf_forEach_records {s : State} {m : Fin 4 → Seq Unit} {g : Fin 4 → Resampler} {p : Fin 4 → Prop} {l : List (Fin 4)}
    {w : Vector Resampler 4} (hl : l.Nodup)
    (hm : ∀ k ∈ l, ∀ v, v.get k = w.get k → RunsIf (p k) (m k) (s.withRs v) () ((s.withRs v).setRs k (g k))) :
    RunsIf (∀ k ∈ l, p k) (forEach l m) (s.withRs w) () (s.withRs (recordsOn l g w)) := by
  induction l generalizing w with
  | nil =>
    have hsame : recordsOn [] g w = w := eq_of_forall_get fun k => (recordsOn_get ..).trans (if_neg List.not_mem_nil)
    rw [hsame]
    exact .of_ok (fun k hk => absurd hk List.not_mem_nil) rfl
  | cons j l ih =>
    obtain ⟨hj, hl⟩ := List.nodup_cons.1 hl
    have hne : ∀ k ∈ l, j ≠ k := fun k hk hjk => hj (hjk ▸ hk)
    have hrest := ih (w := w.set j.val (g j) j.isLt) hl fun k hk v hv =>
      hm k (List.mem_cons_of_mem j hk) v (hv.trans ((record_set_get ..).trans (if_neg (hne k hk))))
    have hrecords : recordsOn l g (w.set j.val (g j) j.isLt) = recordsOn (j :: l) g w := eq_of_forall_get fun k => by
      rw [recordsOn_get, recordsOn_get, record_set_get]
      by_cases hk : j = k
      · subst hk
        rw [if_neg hj, if_pos rfl, if_pos List.mem_cons_self]
      · rw [if_neg hk]
        exact if_congr (by simp [Ne.symm hk]) rfl rfl
    rw [hrecords] at hrest
    exact ((hm j List.mem_cons_self w rfl).bind fun _ => hrest).congr List.forall_mem_cons.symm

theorem State.nodup_live {s : State} (h4 : s.frame.imgN.toNat ≤ 4) : s.live.Nodup := by
  refine List.Nodup.map_on (fun i hi j hj hij => ?_) List.nodup_range
  have hi := List.mem_range.1 hi
  have hj := List.mem_range.1 hj
  have hval := congrArg Fin.val hij
  simp only [Fin.val_ofNat] at hval
  omega

/-! ### The first row's step sets the records and the conversion up (R350, R351, R370 to R372) -/

/-- The record that the row step of component `k` starts from. -/
def State.startRecord (s : State) (k : Fin 4) : Resampler := if s.pos.oj = 0 then s.resamplerFor k else s.rs.get k

/-- The colour-decision flags that the row is made with. -/
def State.startFlags (s : State) : Flags := if s.pos.oj = 0 then { s.flags with isRgb := s.isRgbFrame } else s.flags

/-- The conversion that the row is made with. -/
def State.startOp (s : State) : Byte := if s.pos.oj = 0 then s.colourOp else s.cc

theorem State.colourOp_eq (s : State) : s.colourOp =
    if s.frame.imgN = 1 then 0x40
    else if s.frame.imgN = 3 then (if s.isRgbFrame then 0x41 else 0x42)
    else if s.flags.app14Valid = true ∧ s.flags.app14 = 0 then 0x43
    else if s.flags.app14Valid = true ∧ s.flags.app14 = 2 then 0x44 else 0x45 := by
  simp only [State.colourOp, Bool.and_eq_true, beq_iff_eq]

/-- The state with resampler records, colour-decision flags and a conversion. -/
def State.withOutput (w : Vector Resampler 4) (f : Flags) (c : Byte) (s : State) : State := { s with rs := w, flags := f, cc := c }

/-- The state in which the row steps start. -/
def State.rowStarted (s : State) : State := s.withOutput (recordsOn s.live s.startRecord s.rs) s.startFlags s.startOp

section
variable {s : State}

theorem rowStarted_rs_live {k : Fin 4} (hk : k ∈ s.live) : s.rowStarted.rs.get k = s.startRecord k :=
  (recordsOn_get ..).trans (if_pos hk)

theorem setupOutput_apply (h4 : s.frame.imgN.toNat ≤ 4) : setupOutput s = .ok ()
    (s.withOutput (recordsOn s.live s.resamplerFor s.rs) { s.flags with isRgb := s.isRgbFrame } s.colourOp) := by
  have hsetup (k : Fin 4) (v : Vector Resampler 4) (hv : v.get k = s.rs.get k) :
      setupResampler k (s.withRs v) = .ok () ((s.withRs v).setRs k (s.resamplerFor k)) := by
    rw [setupResampler, upd_apply, State.resamplerFor, State.resamplerFor, ← hv]
    rfl
  have hrecords := runsIf_forEach_records (w := s.rs) (p := fun _ => True) (State.nodup_live h4) fun k _ v hv =>
    .of_ok trivial (hsetup k v hv)
  rw [setupOutput, look_bind]
  exact seq_bind_ok (hrecords.ok fun _ _ => trivial) _

theorem onlyIf_setupOutput (h4 : s.frame.imgN.toNat ≤ 4) : onlyIf (s.pos.oj == 0) setupOutput s = .ok () s.rowStarted := by
  rw [onlyIf_apply, State.rowStarted, State.startFlags, State.startOp]
  by_cases hfirst : s.pos.oj = 0
  · have hstart : s.startRecord = s.resamplerFor := funext fun k => if_pos hfirst
    rw [if_pos (beq_iff_eq.2 hfirst), if_pos hfirst, if_pos hfirst, hstart]
    exact setupOutput_apply h4
  · have hstart : s.startRecord = s.rs.get := funext fun k => if_neg hfirst
    have hsame : recordsOn s.live s.rs.get s.rs = s.rs := eq_of_forall_get fun k => (recordsOn_get ..).trans (ite_self _)
    rw [if_neg (mt beq_iff_eq.1 hfirst), if_neg hfirst, if_neg hfirst, hstart, hsame]
    rfl

end

/-! ### The row step of one component (R352) -/

theorem Resampler.near_eq (r : Resampler) : r.near = if r.vs.toNat / 2 ≤ r.ystep.toNat then r.line1.toNat else r.line0.toNat := by
  simp only [Resampler.near, Resampler.bottom, Nat.shiftRight_one, decide_eq_true_eq]

theorem Resampler.far_eq (r : Resampler) : r.far = if r.vs.toNat / 2 ≤ r.ystep.toNat then r.line0.toNat else r.line1.toNat := by
  simp only [Resampler.far, Resampler.bottom, Nat.shiftRight_one, decide_eq_true_eq]

theorem usesFar_iff {sel : Byte} : usesFar sel = true ↔ sel = 0x31 ∨ sel = 0x33 := by
  rw [usesFar, Bool.or_eq_true, beq_iff_eq, beq_iff_eq]

/-- The record after an output row, field by field: it moves to the next plane row, or repeats this one (R352). -/
theorem Resampler.next_eq (r : Resampler) (compY : Nat) : r.next compY = { r with
    ystep := if r.vs.toNat ≤ r.ystep.toNat + 1 then 0 else r.ystep + 1
    line0 := if r.vs.toNat ≤ r.ystep.toNat + 1 then r.line1 else r.line0
    ypos := if r.vs.toNat ≤ r.ystep.toNat + 1 then r.ypos + 1 else r.ypos
    line1 := if r.vs.toNat ≤ r.ystep.toNat + 1 ∧ r.ypos.toNat + 1 < compY then r.line1 + 1 else r.line1 } := by
  rw [Resampler.next]
  by_cases hwraps : r.vs.toNat ≤ r.ystep.toNat + 1
  · simp only [if_neg (Nat.not_lt.2 hwraps), hwraps, if_true, true_and]
  · simp only [if_pos (Nat.not_le.1 hwraps), hwraps, if_false, false_and]

section
variable {s : State}

/-- The samples that the kernel of the record reads are written. -/
def State.Readable (s : State) (k : Fin 4) (r : Resampler) : Prop :=
  (∀ i, i < r.wLores.toNat → (s.sample k r.near i).isSome = true) ∧
    (usesFar r.kern = true → ∀ i, i < r.wLores.toNat → (s.sample k r.far i).isSome = true)

/-- The near operand row of the record's kernel. -/
def State.nearRow (s : State) (k : Fin 4) (r : Resampler) : List Byte := s.planeRow k r.near 0 r.wLores.toNat

/-- The far operand row, empty for a kernel that reads none. -/
def State.farRow (s : State) (k : Fin 4) (r : Resampler) : List Byte :=
  if usesFar r.kern then s.planeRow k r.far 0 r.wLores.toNat else []

/-- The record after its row step. -/
def State.resampled (s : State) (k : Fin 4) (r : Resampler) : Resampler :=
  { r.next (s.comp.get k).y.toNat with lineBuf := kernel r.kern (s.nearRow k r) (s.farRow k r) r.hs.toNat }

/-- What a kernel reads, column by column. -/
theorem State.readable_iff {k : Fin 4} {r : Resampler} : s.Readable k r ↔ ∀ i, i < r.wLores.toNat →
    (s.sample k r.near i).isSome = true ∧ (usesFar r.kern = true → (s.sample k r.far i).isSome = true) :=
  ⟨fun h i hi => ⟨h.1 i hi, fun hfar => h.2 hfar i hi⟩, fun h => ⟨fun i hi => (h i hi).1, fun hfar i hi => (h i hi).2 hfar⟩⟩

theorem State.length_farRow {k : Fin 4} {r : Resampler} (hfar : usesFar r.kern = true) :
    (s.farRow k r).length = (s.nearRow k r).length := by
  rw [State.farRow, if_pos hfar, State.nearRow, State.length_planeRow, State.length_planeRow]

theorem State.Readable.sample_near {k : Fin 4} {r : Resampler} (h : s.Readable k r) {i : Nat} (hi : i < r.wLores.toNat) :
    s.sample k r.near i = some ((s.nearRow k r).getD i 0) :=
  State.sample_eq_planeRow hi (h.1 i hi)

theorem State.Readable.sample_far {k : Fin 4} {r : Resampler} (h : s.Readable k r) (hfar : usesFar r.kern = true) {i : Nat}
    (hi : i < r.wLores.toNat) : s.sample k r.far i = some ((s.farRow k r).getD i 0) := by
  rw [State.farRow, if_pos hfar]
  exact State.sample_eq_planeRow hi (h.2 hfar i hi)

theorem runsIf_readFar (k : Fin 4) (r : Resampler) :
    RunsIf (usesFar r.kern = true → ∀ i, i < r.wLores.toNat → (s.sample k r.far i).isSome = true)
      (if usesFar r.kern then readRow k r.far 0 r.wLores.toNat else pure []) s (s.farRow k r) s := by
  rw [State.farRow]
  split_ifs with hfar
  · refine (runsIf_readRow 0).congr ?_
    simp [hfar]
  · exact .of_ok (fun h => absurd h hfar) rfl

theorem runsIf_rowStep (k : Fin 4) : RunsIf (s.Readable k (s.rs.get k)) (rowStep k) s () (s.setRs k (s.resampled k (s.rs.get k))) := by
  have hnear := runsIf_readRow (s := s) (c := k) (y := (s.rs.get k).near) (n := (s.rs.get k).wLores.toNat) 0
  simp only [Nat.zero_add] at hnear
  exact hnear.bind fun _ => (runsIf_readFar k (s.rs.get k)).bind_ok rfl

/-! ### A row (R370) -/

/-- The samples that the next row is made of are written. -/
def State.RowReadable (s : State) : Prop := ∀ k ∈ s.live, s.Readable k (s.startRecord k)

/-- The state with the next row in the line buffers, and the records moved on. -/
def State.rowResampled (s : State) : State :=
  s.withOutput (recordsOn s.live (fun k => s.resampled k (s.startRecord k)) s.rowStarted.rs) s.startFlags s.startOp

/-- The state with a row waiting for the host. -/
def State.withPending (p : BitVec 16 × List Byte) (s : State) : State := { s with rowPending := some p }

/-- The state with the next row waiting for the host. -/
def State.rowMade (s : State) : State := s.rowResampled.withPending (s.pos.oj, s.rowResampled.rowData)

theorem rowMade_rs_live {k : Fin 4} (hk : k ∈ s.live) : s.rowMade.rs.get k = s.resampled k (s.startRecord k) :=
  (recordsOn_get ..).trans (if_pos hk)

theorem rowMade_rs_other {k : Fin 4} (hk : k ∉ s.live) : s.rowMade.rs.get k = s.rs.get k :=
  (recordsOn_get ..).trans ((if_neg hk).trans ((recordsOn_get ..).trans (if_neg hk)))

theorem runsIf_makeRow (h4 : s.frame.imgN.toNat ≤ 4) : RunsIf s.RowReadable makeRow s () s.rowMade := by
  have hstep (k : Fin 4) (hk : k ∈ s.live) (v : Vector Resampler 4) (hv : v.get k = s.rowStarted.rs.get k) :
      RunsIf (s.Readable k (s.startRecord k)) (rowStep k) (s.rowStarted.withRs v) ()
        ((s.rowStarted.withRs v).setRs k (s.resampled k (s.startRecord k))) := by
    rw [← hv.trans (rowStarted_rs_live hk)]
    exact runsIf_rowStep (s := s.rowStarted.withRs v) k
  have hrun : makeRow s = (forEach s.live rowStep >>= fun _ => upd fun s => { s with rowPending := some (s.pos.oj, s.rowData) })
      s.rowStarted := by
    rw [makeRow, look_bind, seq_bind_ok (onlyIf_setupOutput h4), look_bind]
    rfl
  rw [RunsIf, hrun]
  exact (runsIf_forEach_records (State.nodup_live h4) hstep).bind_ok rfl

/-! ### A row offered to the host (R85, R370, R381) -/

theorem State.offerRow_pending {j : BitVec 16} {data : List Byte} (h : s.rowPending = some (j, data)) :
    s.offerRow = if 0 < s.port.rowAccepts then s.finishRow j data else s := by
  rw [State.offerRow, h]

/-- The offer leaves unchanged what an accepted row leaves unchanged. -/
theorem State.offerRow_keeps {γ : Type} {π : State → γ} (h : ∀ (s : State) j data, π (s.finishRow j data) = π s) :
    π s.offerRow = π s := by
  cases hrow : s.rowPending with
  | none => rw [State.offerRow, hrow]
  | some p =>
    rw [State.offerRow_pending hrow]
    split_ifs
    · exact h s _ _
    · rfl

/-- From `s` to `t` the row `oj` of bytes `data` has been made, and it is accepted if the host accepts one, else held pending. -/
def State.Offers (s t : State) (data : List Byte) : Prop :=
  if 0 < s.port.rowAccepts then
    t.port.events = s.port.events ++ [Event.row s.pos.oj data] ∧ t.rowsEmitted = s.rowsEmitted + 1 ∧ t.pos.oj = s.pos.oj + 1 ∧
      t.rowPending = none ∧ t.phase = if s.pos.oj.toNat + 1 = s.frame.imgY.toNat then Phase.done else Phase.output
  else t.port.events = s.port.events ∧ t.rowsEmitted = s.rowsEmitted ∧ t.pos.oj = s.pos.oj ∧
    t.rowPending = some (s.pos.oj, data) ∧ t.phase = Phase.output

/-- A row offered from a state that differs from `s` in the output registers only. -/
theorem State.offers_offerRow (hp : s.phase = .output) (w : Vector Resampler 4) (f : Flags) (c : Byte) (data : List Byte) :
    s.Offers ((s.withOutput w f c).withPending (s.pos.oj, data)).offerRow data := by
  have hoffer : ((s.withOutput w f c).withPending (s.pos.oj, data)).offerRow = if 0 < s.port.rowAccepts then
      ((s.withOutput w f c).withPending (s.pos.oj, data)).finishRow s.pos.oj data
    else (s.withOutput w f c).withPending (s.pos.oj, data) := State.offerRow_pending rfl
  rw [hoffer, State.Offers, ← hp]
  split_ifs with haccepts hlast
  · exact ⟨rfl, rfl, rfl, rfl, if_pos hlast⟩
  · exact ⟨rfl, rfl, rfl, rfl, if_neg hlast⟩
  · exact ⟨rfl, rfl, rfl, rfl, rfl⟩

theorem State.offers_rowMade (s : State) (hp : s.phase = .output) : s.Offers s.rowMade.offerRow s.rowMade.rowData :=
  State.offers_offerRow hp _ _ _ _

/-! ### One step of OUTPUT (R370, R380) -/

theorem step_output (hturn : s.OwnTurn) (hp : s.phase = .output) (hc : s.cancels = false) : step s = outputStep s := by
  rw [step_ownTurn hturn, sequencerStep, phaseStep, hp, hc]
  rfl

/-- A step with no row waiting makes the next row and offers it, or faults where a sample is unwritten. -/
theorem step_makesRow (hturn : s.OwnTurn) (hp : s.phase = .output) (hc : s.cancels = false) (hnone : s.rowPending = none)
    (h4 : s.frame.imgN.toNat ≤ 4) :
    (s.RowReadable ∧ step s = .next s.unheld.rowMade.offerRow) ∨ (¬s.RowReadable ∧ ∃ f, step s = .fault f) := by
  have hstep : step s = settle s (makeRow s.unheld) fun _ t => .next t.offerRow := by
    rw [step_output hturn hp hc, outputStep, hnone]
    rfl
  rw [hstep]
  rcases runsIf_makeRow (s := s.unheld) h4 with ⟨hread, e⟩ | ⟨hread, f, u, e⟩
  · rw [e]
    exact .inl ⟨hread, rfl⟩
  · rw [e]
    exact .inr ⟨hread, f, rfl⟩

theorem step_offersRow {j : BitVec 16} {data : List Byte} (hturn : s.OwnTurn) (hp : s.phase = .output)
    (hrow : s.rowPending = some (j, data)) :
    step s = .next (if 0 < s.port.rowAccepts then s.finishRow j data else s) := by
  have hc : s.cancels = false := by rw [State.cancels, hrow, Option.isNone_some, Bool.and_false]
  rw [step_output hturn hp hc, outputStep, hrow, ← State.offerRow_pending hrow]
  rfl

/-! ### The row of a gray frame (R373) -/

theorem rowData_gray {row : List Byte} (hcc : s.cc = 0x40) (hline : (s.rs.get 0).lineBuf = row)
    (hlen : row.length = s.frame.imgX.toNat) : s.rowData = row := by
  have hpixel (i : Nat) : convert s.cc (s.pixelAt i) = [row.getD i 0] := by
    rw [hcc, ← hline]
    simp [convert, ccGray, State.pixelAt, Vector.get_eq_getElem]
  simp only [State.rowData, hpixel, ← hlen, ← List.map_eq_flatMap]
  refine List.ext_getElem (by simp) fun i _ hi => ?_
  simp [hi]

section
variable {k : Fin 4} {r : Resampler} {row : List Byte} (hkern : r.kern = 0x30) (hw : row.length = r.wLores.toNat)
  (h : ∀ i, i < row.length → s.sample k r.near i = some (row.getD i 0))
include hkern hw h

/-- One-to-one sampling puts the near plane row in the line buffer (R353). -/
theorem lineBuf_resampled_one : (s.resampled k r).lineBuf = row := by
  show kernel r.kern (s.nearRow k r) (s.farRow k r) r.hs.toNat = row
  rw [hkern, State.nearRow, ← hw, State.planeRow_eq h]
  rfl

theorem readable_one : s.Readable k r := by
  refine ⟨fun i hi => ?_, fun hfar => ?_⟩
  · rw [h i (hw ▸ hi)]
    rfl
  · rw [hkern] at hfar
    cases hfar

end

/-- The step of a gray frame of one-to-one sampling after the first row: its row is the near plane row. -/
theorem step_grayRow (hturn : s.OwnTurn) (hp : s.phase = .output) (hc : s.cancels = false) (hnone : s.rowPending = none)
    (hoj : s.pos.oj ≠ 0) (hone : s.frame.imgN = 1) (hkern : (s.rs.get 0).kern = 0x30) (hcc : s.cc = 0x40)
    (hw : (s.rs.get 0).wLores = s.frame.imgX) {row : List Byte} (hlen : row.length = s.frame.imgX.toNat)
    (h : ∀ i, i < row.length → s.sample 0 (s.rs.get 0).near i = some (row.getD i 0)) :
    step s = .next s.unheld.rowMade.offerRow ∧ (s.unheld.rowMade.rs.get 0).lineBuf = row ∧ s.unheld.rowMade.rowData = row := by
  have hn : s.frame.imgN.toNat = 1 := congrArg BitVec.toNat hone
  have h4 : s.frame.imgN.toNat ≤ 4 := by omega
  have hstart : s.startRecord 0 = s.rs.get 0 := if_neg hoj
  have hcount : row.length = (s.startRecord 0).wLores.toNat := by rw [hstart, hw, hlen]
  rw [← hstart] at hkern h
  have hread : s.RowReadable := fun k hk => by
    have hk := (State.mem_live h4).1 hk
    obtain rfl : k = 0 := Fin.ext (by omega)
    exact readable_one hkern hcount h
  have hlive : (0 : Fin 4) ∈ s.live := (State.mem_live h4).2 (by omega)
  have hline : (s.unheld.rowMade.rs.get 0).lineBuf = row := by
    rw [rowMade_rs_live (s := s.unheld) hlive]
    exact lineBuf_resampled_one hkern hcount h
  have hop : s.unheld.rowMade.cc = 0x40 := (if_neg hoj).trans hcc
  refine ⟨?_, hline, rowData_gray hop hline hlen⟩
  rcases step_makesRow hturn hp hc hnone h4 with ⟨-, e⟩ | ⟨hn, -⟩
  · exact e
  · exact absurd hread hn

end

/-- Settles O59: with no row waiting the step is a function of the state it begins in, and its clauses are read off the row it makes;
a waiting row is only offered. -/
theorem rowsProducedAndAccepted : Obligations.RowsProducedAndAccepted := by
  refine ⟨fun s row hturn hp hc hnone hoj hone hkern hcc hw hlen h => ?_, fun s j data hturn hp hrow => ?_,
    fun s hturn hp hc hnone h4 => ?_⟩
  · obtain ⟨hstep, hline, hdata⟩ := step_grayRow hturn hp hc hnone hoj hone hkern hcc hw hlen h
    have hoffer := s.unheld.offers_rowMade hp
    rw [hdata] at hoffer
    refine ⟨_, hstep, State.offerRow_keeps fun _ _ _ => rfl, State.offerRow_keeps fun _ _ _ => rfl, ?_, hoffer⟩
    rw [State.offerRow_keeps (π := State.rs) fun _ _ _ => rfl, hline]
  · rw [step_offersRow hturn hp hrow, apply_ite Host.Outcome.next, State.finishRow, hp]
    rfl
  · intro first rgb cc record lower nearRow farRow blends pixel
    have hrecord : record = s.startRecord := rfl
    have hnear (k) : nearRow k = (s.startRecord k).near := (Resampler.near_eq _).symm
    have hfar (k) : farRow k = (s.startRecord k).far := (Resampler.far_eq _).symm
    have hblends (k) : blends k ↔ usesFar (s.startRecord k).kern = true := usesFar_iff.symm
    have hcc : s.unheld.rowMade.cc = cc := (if_congr Iff.rfl s.colourOp_eq rfl).trans (ite_not ..).symm
    have hpixel : pixel = convert s.unheld.rowMade.cc := by
      rw [hcc]
      rfl
    have hreadable : s.RowReadable ↔ ∀ k : Fin 4, k.val < s.frame.imgN.toNat → ∀ i, i < (record k).wLores.toNat →
        (s.sample k (nearRow k) i).isSome = true ∧ (blends k → (s.sample k (farRow k) i).isSome = true) := by
      simp only [State.RowReadable, State.mem_live h4, State.readable_iff, hnear, hfar, hblends, hrecord]
    rcases step_makesRow hturn hp hc hnone h4 with ⟨hread, hstep⟩ | ⟨hread, f, hstep⟩
    · refine ⟨fun _ => ⟨_, hstep⟩, fun t ht => ?_⟩
      rw [hstep] at ht
      cases ht
      have hrs : s.unheld.rowMade.offerRow.rs = s.unheld.rowMade.rs := State.offerRow_keeps (π := State.rs) fun _ _ _ => rfl
      refine ⟨State.offerRow_keeps fun _ _ _ => rfl, State.offerRow_keeps fun _ _ _ => rfl,
        (State.offerRow_keeps fun _ _ _ => rfl).trans hcc, State.offerRow_keeps fun _ _ _ => rfl, fun k hk => ?_, fun k hk => ?_, ?_⟩
      · rw [hrs]
        exact rowMade_rs_other (s := s.unheld) fun hlive => absurd ((State.mem_live h4).1 hlive) (Nat.not_lt.2 hk)
      · have hlive : k ∈ s.live := (State.mem_live h4).2 hk
        have hread : s.Readable k (s.startRecord k) := hread k hlive
        refine ⟨s.nearRow k (s.startRecord k), s.farRow k (s.startRecord k), State.length_planeRow 0,
          fun hb => State.length_farRow ((hblends k).1 hb), fun i hi => ?_, ?_⟩
        · rw [State.nearRow, State.length_planeRow] at hi
          rw [hnear, hfar, hblends]
          exact ⟨hread.sample_near hi, fun hb => hread.sample_far hb hi⟩
        · rw [hrs, rowMade_rs_live (s := s.unheld) hlive, State.resampled, Resampler.next_eq]
          rfl
      · rw [hrs, hpixel]
        exact s.unheld.offers_rowMade hp
    · refine ⟨fun h => absurd (hreadable.2 h) hread, fun t ht => ?_⟩
      rw [hstep] at ht
      cases ht

end Sys2Proof.Machine

/-! PROOFS of the statements about the exceptions (60_exceptions.md): what a step does at a cancellation point and outside the busy
phases, the error table, and what ABORT and IRQ_EN write. -/

namespace Sys2Proof.Machine

/-! ### The phases in which the sequencer takes no step (R210, R417) -/

theorem Phase.waiting_iff {p : Phase} : p.waiting = true ↔ p = .idle ∨ p = .done ∨ p = .error := by
  cases p <;> decide

theorem Phase.waiting_of_busy {p : Phase} (h : p.busy = true) : p.waiting = false := (Bool.not_eq_true' _).mp h

theorem Phase.waiting_of_not_busy {p : Phase} (h : p.busy = false) : p.waiting = true := (Bool.not_eq_false' _).mp h

section
variable {s : State}

/-! ### Cancellation (R418) -/

/-- An ABORT is pending, and the step waits neither on input nor on a row. -/
theorem State.cancels_iff : s.cancels = true ↔ s.ctl.abortReq = true ∧ s.ctl.stallIn = false ∧ s.rowPending = none := by
  rw [State.cancels, Bool.and_eq_true, Bool.and_eq_true, Bool.not_eq_true', Option.isNone_iff_eq_none, and_assoc]

theorem step_waiting (hturn : s.OwnTurn) (hw : s.phase.waiting = true) : step s = .next s := by
  rw [step_ownTurn hturn, sequencerStep, if_pos hw]

theorem step_cancels (hturn : s.OwnTurn) (hb : s.phase.busy = true) (hc : s.cancels = true) :
    step s = .next (s.takeError .cancelled) := by
  rw [step_ownTurn hturn, sequencerStep, Phase.waiting_of_busy hb, if_neg Bool.false_ne_true, if_pos hc]

/-! ### ABORT and IRQ_EN (R415, R417) -/

theorem State.requestAbort_busy (hb : s.phase.busy = true) :
    s.requestAbort = { s with ctl := { s.ctl with abortReq := true } } := by
  rw [State.requestAbort, Phase.waiting_of_busy hb, if_neg Bool.false_ne_true]

theorem State.requestAbort_waiting (hw : s.phase.waiting = true) : s.requestAbort = s := if_pos hw

/-- The write of an ABORT alone: the request, then the level of IRQ_EN. -/
theorem exec_ctrlAbort (irqEn : Bool) (s : State) :
    exec (.ctrlAbort irqEn) s = .next { s.requestAbort with ctl := { s.requestAbort.ctl with irqEn := irqEn } } := rfl

theorem exec_ctrlIrqEn (level : Bool) (s : State) :
    exec (.ctrlIrqEn level) s = .next { s with ctl := { s.ctl with irqEn := level } } := rfl

theorem State.irq_iff : s.irq = true ↔ s.ctl.irqEn = true ∧ (s.phase = .done ∨ s.phase = .error) := by
  rw [State.irq, Bool.and_eq_true, Bool.or_eq_true, beq_iff_eq, beq_iff_eq]

end

/-- Settles O6: a busy phase takes Cancelled at a cancellation point, a waiting one takes no step. -/
theorem cancellationTaken : Obligations.CancellationTaken :=
  ⟨fun _ hturn hb habort hstall hrow => step_cancels hturn hb (State.cancels_iff.2 ⟨habort, hstall, hrow⟩),
    fun _ hturn hp => step_waiting hturn (Phase.waiting_iff.2 hp)⟩

/-- Settles O11: the table is evaluated row by row; taking an error is its definition. -/
theorem errorCodes : Obligations.ErrorCodes := ⟨by decide, by decide, fun _ _ => rfl⟩

/-- Settles O15: the request is made where the phase is busy; the level written is the one that irq sees. -/
theorem abortAndIrqCommands : Obligations.AbortAndIrqCommands := by
  refine ⟨fun s irqEn hb => ?_, fun s irqEn hb => ?_, fun s level => ⟨_, exec_ctrlIrqEn level s, rfl, State.irq_iff⟩⟩
  · rw [exec_ctrlAbort, State.requestAbort_busy hb]
  · rw [exec_ctrlAbort, State.requestAbort_waiting (Phase.waiting_of_not_busy hb)]

end Sys2Proof.Machine

/-! PROOFS of the statements about reset and the host commands that begin an image (70_reset_and_hazards.md): the registers at power-on,
and what SOFT_RESET and START write. -/

namespace Sys2Proof.Machine

/-! ### Power-on reset (R440) -/

theorem State.reset_huffAt (tc : Fin 2) (th : Fin 4) : State.reset.huffAt tc th = HuffTable.empty := by
  rw [State.huffAt, State.reset, Vector.get_replicate, Vector.get_replicate]

theorem State.reset_qtLoaded (q : Fin 4) : State.reset.qtLoaded.get q = false := Vector.get_replicate 4 false q

theorem State.reset_comp (c : Fin 4) : State.reset.comp.get c = Comp.empty := Vector.get_replicate 4 Comp.empty c

theorem State.reset_rs (c : Fin 4) : State.reset.rs.get c = Resampler.empty := Vector.get_replicate 4 Resampler.empty c

/-! ### SOFT_RESET and START (R417, R441, R442, R445) -/

theorem State.start_waiting {s : State} (hw : s.phase.waiting = true) : s.start = s.startImage := if_pos hw

theorem State.start_busy {s : State} (hb : s.phase.busy = true) : s.start = s := by
  rw [State.start, Phase.waiting_of_busy hb, if_neg Bool.false_ne_true]

/-- SOFT_RESET leaves the phase IDLE, so a START in the same write is taken: it begins the image that a START alone begins, the
consumed bytes dropped with the others. -/
theorem State.start_softReset (s : State) : s.softReset.start = { s.startImage with ctl := State.reset.ctl } :=
  State.start_waiting rfl

/-- An ABORT in the same write as SOFT_RESET finds the block in IDLE. -/
theorem State.requestAbort_softReset (s : State) : s.softReset.requestAbort = s.softReset := State.requestAbort_waiting rfl

/-- The write of a START: the image begins, then the level of IRQ_EN; an ABORT in it is not looked at. -/
theorem exec_ctrlStart (abort irqEn : Bool) (s : State) :
    exec (.ctrlStart abort irqEn) s = .next { s.start with ctl := { s.start.ctl with irqEn := irqEn } } := rfl

/-- The write of a SOFT_RESET with START. -/
theorem exec_ctrlSoftReset_start (abort irqEn : Bool) (s : State) :
    exec (.ctrlSoftReset true abort irqEn) s =
      .next { s.startImage with ctl := { State.reset.ctl with irqEn := irqEn } } := by
  change Host.Outcome.next { s.softReset.start with ctl := { s.softReset.start.ctl with irqEn := irqEn } } = _
  rw [State.start_softReset]

/-- The write of a SOFT_RESET without START, whatever its ABORT bit. -/
theorem exec_ctrlSoftReset_alone (abort irqEn : Bool) (s : State) :
    exec (.ctrlSoftReset false abort irqEn) s =
      .next { s.softReset with ctl := { State.reset.ctl with irqEn := irqEn } } := by
  cases abort with
  | false => rfl
  | true =>
    change Host.Outcome.next { s.softReset.requestAbort with ctl := { s.softReset.requestAbort.ctl with irqEn := irqEn } } = _
    rw [State.requestAbort_softReset]
    rfl

/-- Settles O10: the bit machine is empty, the marker NONE, every plane empty, and the phase is not ERROR. -/
theorem resetMeetsInvariants : Obligations.ResetMeetsInvariants :=
  ⟨State.inv_reset_setPhase .idle, (State.errorRecorded_of_phase_ne (by decide)).2 ⟨rfl, rfl⟩⟩

/-- Settles O12: the arrays hold their POR element at every index; the other registers are read off the reset state. -/
theorem powerOnValues : Obligations.PowerOnValues :=
  ⟨rfl, rfl, rfl, rfl, rfl, rfl, rfl, rfl, fun tc th => congrArg HuffTable.loaded (State.reset_huffAt tc th),
    State.reset_qtLoaded, rfl, State.reset_comp, rfl, rfl, rfl, rfl, rfl, State.reset_rs, rfl, rfl, rfl, rfl, rfl, rfl⟩

/-- Settles O13: with START the write begins an image, without it the write is the reset alone. -/
theorem softResetCommand : Obligations.SoftResetCommand := by
  intro s start abort irqEn
  cases start with
  | true => exact exec_ctrlSoftReset_start abort irqEn s
  | false => exact exec_ctrlSoftReset_alone abort irqEn s

/-- Settles O14: START begins the image in the waiting phases and leaves a busy block as it is; the level of IRQ_EN is written in both. -/
theorem startCommand : Obligations.StartCommand := by
  refine ⟨fun s abort irqEn hp => ?_, fun s abort irqEn hb => ?_⟩
  · rw [exec_ctrlStart, State.start_waiting (Phase.waiting_iff.2 hp)]
    rfl
  · rw [exec_ctrlStart, State.start_busy hb]

end Sys2Proof.Machine
